-- ==== Sys2Proof/Word.lean ====
section
/-! DEFINITION. The words the machine computes with (spec/00_scope.md R5, R6): all are unsigned. -/

namespace Sys2Proof

/-- A byte: a memory cell, a variable register, an `nn` immediate. -/
abbrev Byte := BitVec 8

/-- 16 bits: an instruction word, `pc`, `I`, a call-stack entry. -/
abbrev Word := BitVec 16

/-- 12 bits: the `nnn` field, an address or immediate. -/
abbrev Addr := BitVec 12

/-- The number of a variable register, V0 to VF (R11: every 4-bit field value names an existing register). -/
abbrev Reg := Fin 16

/-- VF, register 0xF: general storage and the flag (spec/10_state.md R12). -/
def VF : Reg := 15

end Sys2Proof
end

