-- ==== Sys2Proof/Syntax.lean ====
section
/-! DEFINITION. The 13 instructions (spec/30_encoding.md R54), one constructor per row of spec/opcode_table.json, in the
table's order. -/

namespace Sys2Proof

/-- An instruction with its operand fields extracted (R51, R53). -/
inductive Instr where
  /-- CLS, 00E0: clear screen (R110). -/
  | cls
  /-- RET, 00EE: return from subroutine (R90). -/
  | ret
  /-- JP nnn, 1nnn: absolute jump (R91). -/
  | jp (nnn : Addr)
  /-- CALL nnn, 2nnn: call subroutine (R92). -/
  | call (nnn : Addr)
  /-- SE Vx, nn, 3xnn: skip if equal (R93). -/
  | se (x : Reg) (nn : Byte)
  /-- SNE Vx, nn, 4xnn: skip if not equal (R94). -/
  | sne (x : Reg) (nn : Byte)
  /-- LD Vx, nn, 6xnn: load immediate (R100). -/
  | ldImm (x : Reg) (nn : Byte)
  /-- ADD Vx, nn, 7xnn: add immediate (R101). -/
  | addImm (x : Reg) (nn : Byte)
  /-- LD Vx, Vy, 8xy0: register copy (R102). -/
  | ldReg (x y : Reg)
  /-- SUBN Vx, Vy, 8xy7: reverse subtract with borrow flag (R103). -/
  | subn (x y : Reg)
  /-- LD I, nnn, Annn: set index register (R104). -/
  | ldI (nnn : Addr)
  /-- RND Vx, nn, Cxnn: random byte AND immediate (R105). -/
  | rnd (x : Reg) (nn : Byte)
  /-- DRW Vx, Vy, n, Dxyn: draw an n-row sprite (R111); `n` is an unsigned count, 0 to 15 (R53). -/
  | drw (x y : Reg) (n : Nat)
  deriving DecidableEq, Repr

end Sys2Proof
end

