-- ==== Sys2Proof/WellFormed.lean ====
section
/-! DEFINITION. Which instruction terms the encoding admits. Every operand but DRW's row count has the width of its field
in its type; the count is a number, and it must fit the 4-bit field `n` (spec/30_encoding.md R51, R53). -/

namespace Sys2Proof

/-- The one check: DRW's row count fits its 4-bit field, 0 to 15 (R53). -/
def Instr.wf : Instr → Bool
  | .cls => true
  | .ret => true
  | .jp _ => true
  | .call _ => true
  | .se _ _ => true
  | .sne _ _ => true
  | .ldImm _ _ => true
  | .addImm _ _ => true
  | .ldReg _ _ => true
  | .subn _ _ => true
  | .ldI _ => true
  | .rnd _ _ => true
  | .drw _ _ n => decide (n < 16)

end Sys2Proof
end

