-- ==== Sys2Proof/Decode.lean ====
section
/-! DEFINITION. The decoder (spec/30_encoding.md R50 to R57), total on any bytes and rejecting by name, and after it the
encoder, written from the same table (R54, R59). -/

namespace Sys2Proof

/-- Why bytes are no instruction. -/
inductive DecodeReject where
  /-- The 16-bit word is none of the 13 instructions (R55). -/
  | unsupported (w : Word)
  /-- Fewer than the two bytes of an instruction are left (R50). -/
  | truncated
  deriving DecidableEq, Repr

/-- The fields of an instruction word (R51): `op` = w[15:12]. -/
def opField (w : Word) : BitVec 4 := w.extractLsb' 12 4

/-- `x` = w[11:8], a register index (R51). -/
def xField (w : Word) : Reg := (w.extractLsb' 8 4).toFin

/-- `y` = w[7:4], a register index (R51). -/
def yField (w : Word) : Reg := (w.extractLsb' 4 4).toFin

/-- `n` = w[3:0], an unsigned count or a sub-operation selector (R51). -/
def nField (w : Word) : Nat := (w.extractLsb' 0 4).toNat

/-- `nn` = w[7:0], an 8-bit immediate (R51). -/
def nnField (w : Word) : Byte := w.extractLsb' 0 8

/-- `nnn` = w[11:0], a 12-bit address or immediate (R51). -/
def nnnField (w : Word) : Addr := w.extractLsb' 0 12

/-- The decode function of R57, in its order. -/
def decode (w : Word) : Except DecodeReject Instr :=
  if w = 0x00E0#16 then .ok .cls
  else if w = 0x00EE#16 then .ok .ret
  else if opField w = 0x1#4 then .ok (.jp (nnnField w))
  else if opField w = 0x2#4 then .ok (.call (nnnField w))
  else if opField w = 0x3#4 then .ok (.se (xField w) (nnField w))
  else if opField w = 0x4#4 then .ok (.sne (xField w) (nnField w))
  else if opField w = 0x6#4 then .ok (.ldImm (xField w) (nnField w))
  else if opField w = 0x7#4 then .ok (.addImm (xField w) (nnField w))
  else if opField w = 0x8#4 ∧ nField w = 0x0 then .ok (.ldReg (xField w) (yField w))
  else if opField w = 0x8#4 ∧ nField w = 0x7 then .ok (.subn (xField w) (yField w))
  else if opField w = 0xA#4 then .ok (.ldI (nnnField w))
  else if opField w = 0xC#4 then .ok (.rnd (xField w) (nnField w))
  else if opField w = 0xD#4 then .ok (.drw (xField w) (yField w) (nField w))
  else .error (.unsupported w)

/-- Two bytes of memory as one word, high byte first (R34, R50). -/
def wordOfBytes (hi lo : Byte) : Word := hi ++ lo

/-- The high byte of a word, the one at the lower address (R50). -/
def hiByte (w : Word) : Byte := w.extractLsb' 8 8

/-- The low byte of a word, the one at the higher address (R50). -/
def loByte (w : Word) : Byte := w.extractLsb' 0 8

/-- Decode the instruction at the head of a byte sequence, and what is left of the sequence (R50: two bytes always). -/
def decodeBytes : List Byte → Except DecodeReject (Instr × List Byte)
  | hi :: lo :: rest => (decode (wordOfBytes hi lo)).map (fun i => (i, rest))
  | [_] => .error .truncated
  | [] => .error .truncated

/-- Format NNN (R52): op, nnn. -/
def formatNNN (op : BitVec 4) (nnn : Addr) : Word := op ++ nnn

/-- Format XNN (R52): op, x, nn. -/
def formatXNN (op : BitVec 4) (x : Reg) (nn : Byte) : Word := op ++ BitVec.ofFin (w := 4) x ++ nn

/-- Formats XY and XYN (R52): op, x, y and the low nibble. -/
def formatXYN (op : BitVec 4) (x y : Reg) (n : BitVec 4) : Word :=
  op ++ BitVec.ofFin (w := 4) x ++ BitVec.ofFin (w := 4) y ++ n

/-- The instruction word (R54, R59). -/
def encode : Instr → Word
  | .cls => 0x00E0#16
  | .ret => 0x00EE#16
  | .jp nnn => formatNNN 0x1#4 nnn
  | .call nnn => formatNNN 0x2#4 nnn
  | .se x nn => formatXNN 0x3#4 x nn
  | .sne x nn => formatXNN 0x4#4 x nn
  | .ldImm x nn => formatXNN 0x6#4 x nn
  | .addImm x nn => formatXNN 0x7#4 x nn
  | .ldReg x y => formatXYN 0x8#4 x y 0x0#4
  | .subn x y => formatXYN 0x8#4 x y 0x7#4
  | .ldI nnn => formatNNN 0xA#4 nnn
  | .rnd x nn => formatXNN 0xC#4 x nn
  | .drw x y n => formatXYN 0xD#4 x y (BitVec.ofNat 4 n)

/-- The two bytes of an instruction in memory order (R50). -/
def encodeBytes (i : Instr) : List Byte := [hiByte (encode i), loByte (encode i)]

/-- The instruction word of a row of spec/opcode_table.json whose `nbits` bits are `w`; the bits above are 0. -/
def tableWord (nbits w : Nat) : Word := BitVec.ofNat 16 (w % 2 ^ nbits)

/-- What the decoder reads from an instruction of the opcode table, its word laid out as the hardware stores it: the
high byte first (R50). -/
def decodeTableWord (nbits w : Nat) : Option Instr :=
  match decodeBytes [hiByte (tableWord nbits w), loByte (tableWord nbits w)] with
  | .ok (i, _) => some i
  | .error _ => none

end Sys2Proof
end

