-- ==== Sys2Proof/Config.lean ====
section
/-! DEFINITION. The parameters of the core (spec/00_scope.md R5) and the one free value, the random byte of RND
(spec/40_step_cycle.md R79). The other constants of R5 are the shapes themselves: 16 registers of 8 bits and 32 rows of 64
cells in State, 16-bit `pc`, `I` and stack entries in Word, the bound 0xFFF in the memory operations. -/

namespace Sys2Proof.Config

/-- `PROG_BASE` (R5): the load address of the program and the reset value of `pc`. -/
def progBase : Nat := 0x200

/-- `ROM_MAX` (R5): the largest legal program length in bytes. -/
def romMax : Nat := 3584

/-- The default of the open parameter `STACK_CEILING` (R5, decision D4 of the spec). -/
def defaultStackCeiling : Nat := 16

/-- The open parameters of an instance of the core: an argument of the model (R5, R23), carried in State and changed
by nothing, so that a statement about every state is one about every value of them. Log entry 4. -/
structure Params where
  /-- `STACK_CEILING`: the largest number of entries the call stack may hold, a natural number of at least 1 (R5). -/
  stackCeiling : Nat
  deriving DecidableEq, Repr

/-- The byte the external generator supplies to the k-th RND: a FREE VALUE. R79 puts no condition on it ("every one of
the 256 values is legal on every RND, successive values need not differ"), so it has no body. Log entry 5. -/
opaque randomByte : Nat → Byte

end Sys2Proof.Config
end

