-- ==== Sys2Proof/Machine/State.lean ====
section
/-! DEFINITION. The state of the core, all of it (spec/10_state.md R10), as plain data, and its value after RESET (R26). -/

namespace Sys2Proof.Machine

/-- The four faults of the spec (spec/60_exceptions.md R130). EACH HAS AN EFFECT THERE (R136: the latch is set, all else
of the step is discarded), so the model takes it as a next state: `raise` in Machine/Ops.lean turns one of these names
into that state, and no step answers `Host.Outcome.fault` (log entry 2). Safe: the next state says that it faulted, in
the latch and in the result. -/
inductive Fault where
  /-- Code 1: the fetched word is none of the 13 instructions (R131). Raised by the step's decode. Safe. -/
  | unsupportedOpcode
  /-- Code 2: RET with an empty call stack (R132). Raised by RET. Safe. -/
  | stackUnderflow
  /-- Code 3: a fetch or a sprite read past address 0xFFF (R133). Raised by the step's fetch and by DRW. Safe. -/
  | outOfBoundsAccess
  /-- Code 4: CALL with `STACK_CEILING` entries on the call stack (R134). Raised by CALL. Safe. -/
  | resourceExhaustion
  deriving DecidableEq, Repr

/-- What the model gives no transition. -/
inductive Refusal where
  /-- An instruction with no meaning yet; raised by an arm of exec only (none does). Safe. -/
  | notModelled (mnemonic : String)
  /-- LOAD_PROGRAM with `phase` = RUN: raised by `loadProgram`, since spec/70_reset_and_hazards.md R163 (b) gives the
  call no meaning and asks a model to refuse it. Safe. -/
  | loadProgramAfterStart
  /-- LOAD_PROGRAM of more than 3584 bytes: raised by `loadProgram`, since R163 (a) gives the call no meaning and asks a
  model to refuse it. Safe. -/
  | programTooLong
  deriving DecidableEq, Repr

/-- The host-protocol state (R22). -/
inductive Phase where
  /-- RESET has been performed, and neither LOAD_PROGRAM nor STEP since. -/
  | created
  /-- At least one LOAD_PROGRAM or STEP since the last RESET. -/
  | run
  deriving DecidableEq, Repr

/-- The fault latch `FAULT` (R21), the core's only control and status register. -/
structure FaultLatch where
  /-- 0 none, 1 to 4 the faults (R130), 5 to 7 never. -/
  cause : BitVec 3
  /-- The address the faulting instruction was fetched from. -/
  fpc : Word
  /-- The faulting instruction word; 0x0000 when the fetch itself faulted. -/
  fop : Word
  deriving DecidableEq, Repr

/-- What STEP returns to the host (spec/00_scope.md R8). -/
inductive StepResult where
  /-- No STEP has been performed since RESET; the model's own (log entry 3). -/
  | none
  /-- `Ok(changed)`: the instruction completed; whether the display changed (spec/40_step_cycle.md R76). -/
  | ok (changed : Bool)
  /-- `Fault(cause, fpc, fop)`. -/
  | fault (cause : BitVec 3) (fpc fop : Word)
  deriving DecidableEq, Repr

/-- `MEM` (R20): the cells that differ from 0x00, addresses strictly rising; an unlisted address reads as 0x00, the reset
content of every cell (R26). -/
abbrev Memory := List Host.Cell

/-- `D` (R19): 32 rows of 64 cells, row-major; `true` is lit. -/
abbrev Display := Vector (Vector Bool 64) 32

/-- The whole state (R10), and three fields of the model's own: `params`, `draws`, `out`. -/
structure State where
  /-- `MEM` (R20). -/
  mem : Memory
  /-- `V[0]` to `V[15]` (R11). -/
  v : Vector Byte 16
  /-- The program counter (R13). -/
  pc : Word
  /-- The index register `I` (R15). -/
  i : Word
  /-- `STACK` (R17): oldest entry first, the top last (`push(v)` is `STACK ++ [v]`, R8). -/
  stack : List Word
  /-- `D` (R19). -/
  display : Display
  /-- `FAULT` (R21). -/
  fault : FaultLatch
  /-- `phase` (R22). -/
  phase : Phase
  /-- The instance's open parameters (R5, R23); nothing changes them. Log entry 4. -/
  params : Config.Params
  /-- How many random bytes RND has drawn: the index of the next free value. Log entry 5. -/
  draws : Nat
  /-- The result of the last STEP: the model's output port, read by no operation. Log entry 3. -/
  out : StepResult
  deriving DecidableEq, Repr

/-- Every cell unlit (R26). -/
def Display.blank : Display := Vector.replicate 32 (Vector.replicate 64 false)

/-- The latch with no fault in it (R26). -/
def FaultLatch.clear : FaultLatch := { cause := 0, fpc := 0, fop := 0 }

/-- The machine right after RESET (R26, R160) for an instance with the given parameters. -/
def State.resetWith (params : Config.Params) (draws : Nat) : State where
  mem := []
  v := Vector.replicate 16 0
  pc := BitVec.ofNat 16 Config.progBase
  i := 0
  stack := []
  display := Display.blank
  fault := FaultLatch.clear
  phase := .created
  params := params
  draws := draws
  out := .none

/-- The machine right after its first RESET (R26), for the default `STACK_CEILING` of 16 (R5). -/
def State.reset : State := State.resetWith { stackCeiling := Config.defaultStackCeiling } 0

end Sys2Proof.Machine
end

