-- ==== Sys2Proof/Machine/Ops.lean ====
section
/-! DEFINITION. The named operations: memory (spec/20_memory.md R32, R33), the call stack (R8, R17), the advance of `pc`
(spec/40_step_cycle.md R73), the two ends of a step, completion (R76) and a fault (spec/60_exceptions.md R136), the random
byte (R79), and reading the display (R19). -/

namespace Sys2Proof.Machine

/-! ### Memory -/

/-- The content of the cell at `a`: an unlisted cell holds 0x00. -/
def Memory.byteAt : Memory → Nat → Byte
  | [], _ => 0
  | (b, w) :: rest, a => if b = a then w else Memory.byteAt rest a

/-- Store `v` at `a`, keeping the canonical form: a zero is not listed. -/
def Memory.setByte : Memory → Nat → Byte → Memory
  | [], a, v => if v = 0 then [] else [(a, v)]
  | (b, w) :: rest, a, v =>
    if a < b then (if v = 0 then (b, w) :: rest else (a, v) :: (b, w) :: rest)
    else if a = b then (if v = 0 then rest else (a, v) :: rest)
    else (b, w) :: Memory.setByte rest a v

/-- `MemRead(addr, 1)` (R32): none is the fault OutOfBoundsAccess. -/
def Memory.read1 (m : Memory) (a : Nat) : Option Byte :=
  if a > 0xFFF then none else some (m.byteAt a)

/-- `MemRead(addr, 2)` (R32, R34): high byte first; none is the fault OutOfBoundsAccess. The bound is tested before any
cell is read, and the address does not wrap. -/
def Memory.read2 (m : Memory) (a : Nat) : Option Word :=
  if a + 1 > 0xFFF then none else some (wordOfBytes (m.byteAt a) (m.byteAt (a + 1)))

/-- `MemWrite(addr, 1, v)` (R33), defined for addresses up to 0xFFF; beyond them nothing is stored (log entry 6). -/
def Memory.write1 (m : Memory) (a : Nat) (v : Byte) : Memory :=
  if a > 0xFFF then m else m.setByte a v

/-- Store the bytes one after the other from `a` on (the loop of R162). -/
def Memory.writeBytes (m : Memory) (a : Nat) : List Byte → Memory
  | [] => m
  | b :: rest => Memory.writeBytes (m.write1 a b) (a + 1) rest

/-- The cells are listed from address `lo` on, strictly rising, inside the address space, none of them zero. -/
def Memory.wfFrom (lo : Nat) : Memory → Bool
  | [] => true
  | (a, v) :: rest => decide (lo ≤ a) && decide (a < 4096) && decide (v ≠ 0) && Memory.wfFrom (a + 1) rest

/-- The canonical form. -/
def Memory.wf (m : Memory) : Bool := Memory.wfFrom 0 m

/-! ### The call stack -/

/-- `push(v)`: append at the top (R8). -/
def State.push (s : State) (w : Word) : State := { s with stack := s.stack ++ [w] }

/-- `depth` (R7). -/
def State.depth (s : State) : Nat := s.stack.length

/-- The top entry, none when the stack is empty (R8). -/
def State.top (s : State) : Option Word := s.stack.getLast?

/-- The stack less its top entry (R8: `pop()`). -/
def State.dropTop (s : State) : State := { s with stack := s.stack.dropLast }

/-! ### The program counter -/

/-- `pc <- target` (R7). -/
def State.setPc (s : State) (target : Word) : State := { s with pc := target }

/-- `pc <- pc + 2`: the advance of R73, and once more a taken skip (R93, R94). -/
def State.advance (s : State) : State := s.setPc (s.pc + 2)

/-! ### How a step ends -/

/-- `Ok(changed)`: the step's writes take effect together (R76, R77). -/
def State.complete (s : State) (changed : Bool) : Host.Outcome State Fault Refusal :=
  .next { s with out := .ok changed }

/-- The cause code of a fault (R130). -/
def Fault.code : Fault → BitVec 3
  | .unsupportedOpcode => 1
  | .stackUnderflow => 2
  | .outOfBoundsAccess => 3
  | .resourceExhaustion => 4

/-- TAKING A FAULT (R136), the one shared operation: applied to the state in which the step began, so that every write of
the step is discarded and `pc` still is the address of the faulting instruction; the latch records the cause, that
address and the instruction word, and STEP returns them. -/
def State.raise (s : State) (f : Fault) (fop : Word) : Host.Outcome State Fault Refusal :=
  .next { s with
    fault := { cause := f.code, fpc := s.pc, fop := fop }
    out := .fault f.code s.pc fop }

/-- A fault has been latched: `FAULT.cause` is not 0 (R21). There is no return from a fault but RESET (R137). -/
def State.faulted (s : State) : Bool := s.fault.cause != 0

/-- STEP after a fault (R71): no state changes, and the same fault is returned again. -/
def State.refault (s : State) : Host.Outcome State Fault Refusal :=
  .next { s with out := .fault s.fault.cause s.fault.fpc s.fault.fop }

/-! ### The random byte -/

/-- `rnd` (R79): the byte the external source supplies to the RND about to run, a free value. -/
def State.rndInput (s : State) : Byte := Config.randomByte s.draws

/-- The source has supplied one byte; the next one is another free value. -/
def State.drawn (s : State) : State := { s with draws := s.draws + 1 }

/-! ### The display -/

/-- `D[r][c]` (R19). -/
def Display.cell (d : Display) (r : Fin 32) (c : Fin 64) : Bool := d[r][c]

/-- Write the whole display (CLS and DRW only, R19). -/
def State.setDisplay (s : State) (d : Display) : State := { s with display := d }

end Sys2Proof.Machine
end

