-- ==== Sys2Proof/Machine/Operands.lean ====
section
/-! DEFINITION. The operand forms (spec/30_encoding.md R53): a variable register, an 8-bit immediate, a 12-bit address or
immediate zero-extended to 16 bits, and DRW's start coordinate (spec/43_display.md R113) and sprite bytes (R112). -/

namespace Sys2Proof.Machine

/-- `V[x]` (R7, R11). -/
def State.reg (s : State) (x : Reg) : Byte := s.v[x]

/-- `V[x] <- b` (R7, R11): no other register changes. -/
def State.setReg (s : State) (x : Reg) (b : Byte) : State := { s with v := s.v.set x b }

/-- `zext_16(nnn)` (R6, R53): no immediate is sign-extended, scaled or shifted. -/
def zextAddr (nnn : Addr) : Word := nnn.zeroExtend 16

/-- `I <- v` (R7): no rule masks or checks it (R16). -/
def State.setIndex (s : State) (w : Word) : State := { s with i := w }

/-- The 8-bit sum, wrapping modulo 256 (R101). -/
def addByte (a b : Byte) : Byte := a + b

/-- The 8-bit difference `b - a`, wrapping modulo 256 (R103). -/
def subByte (b a : Byte) : Byte := b - a

/-- `x0 = V[x] mod 64` (R113). -/
def startColumn (vx : Byte) : Nat := vx.toNat % 64

/-- `y0 = V[y] mod 32` (R113; the table's 63 loses, spec/90_conflicts.md C1). -/
def startRow (vy : Byte) : Nat := vy.toNat % 32

/-- The address of sprite row `r` (R112): a mathematical integer, which does not wrap (R16). -/
def spriteAddr (base : Word) (r : Nat) : Nat := base.toNat + r

/-- The n-byte sprite at `base` passes address 0xFFF (R112): false for n = 0. -/
def spriteOutOfBounds (base : Word) (n : Nat) : Bool := decide (n > 0 ∧ base.toNat + n - 1 > 0xFFF)

/-- The pixel of column `c` of a sprite row: bit 7 is the leftmost (R34, R113). -/
def spritePixel (byte : Byte) (c : Nat) : Bool := byte.getLsbD (7 - c)

end Sys2Proof.Machine
end

