-- ==== Sys2Proof/Machine/Flags.lean ====
section
/-! DEFINITION. The one flag, VF in its flag role (spec/10_state.md R12, R28), and the two computations of it: SUBN's
no-borrow flag (spec/42_register_alu.md R103) and DRW's collision flag (spec/43_display.md R115). -/

namespace Sys2Proof.Machine

/-- `VF <- flag`, an 8-bit value 0x01 or 0x00 (R28); always after the main result (R12). -/
def State.setFlag (s : State) (flag : Bool) : State := s.setReg VF (if flag then 0x01 else 0x00)

/-- SUBN's flag for `b - a`: 1 when no borrow occurred, that is `b >= a` (R103). -/
def noBorrow (b a : Byte) : Bool := decide (b.toNat ≥ a.toNat)

/-- DRW's flag (R115): 0x01 on a collision; without one VF is not written at all. -/
def State.setCollision (s : State) (collision : Bool) : State := if collision then s.setFlag true else s

end Sys2Proof.Machine
end

