-- ==== Sys2Proof/Machine/Alu.lean ====
section
/-! DEFINITION. Register and ALU (spec/42_register_alu.md): LD Vx nn, ADD Vx nn, LD Vx Vy, SUBN, LD I nnn, RND. None
raises a fault; `pc` ends at `pc0 + 2`. -/

namespace Sys2Proof.Machine

/-- LD Vx, nn (R100). -/
def execLdImm (x : Reg) (nn : Byte) (s : State) : Host.Outcome State Fault Refusal :=
  (s.advance.setReg x nn).complete false

/-- ADD Vx, nn (R101): wraps silently, and writes no flag. -/
def execAddImm (x : Reg) (nn : Byte) (s : State) : Host.Outcome State Fault Refusal :=
  (s.advance.setReg x (addByte (s.reg x) nn)).complete false

/-- LD Vx, Vy (R102). -/
def execLdReg (x y : Reg) (s : State) : Host.Outcome State Fault Refusal :=
  (s.advance.setReg x (s.reg y)).complete false

/-- SUBN Vx, Vy (R103): both operands are read before the result is written, and the flag is written last (R12). -/
def execSubn (x y : Reg) (s : State) : Host.Outcome State Fault Refusal :=
  ((s.advance.setReg x (subByte (s.reg y) (s.reg x))).setFlag (noBorrow (s.reg y) (s.reg x))).complete false

/-- LD I, nnn (R104): the only writer of `I`; no bound is checked here. -/
def execLdI (nnn : Addr) (s : State) : Host.Outcome State Fault Refusal :=
  (s.advance.setIndex (zextAddr nnn)).complete false

/-- The effect of RND on `V[x]` for a given random byte (R105). -/
def State.setRandom (s : State) (x : Reg) (rnd nn : Byte) : State := s.setReg x (rnd &&& nn)

/-- RND Vx, nn (R105): the byte is the step's free input (R79). -/
def execRnd (x : Reg) (nn : Byte) (s : State) : Host.Outcome State Fault Refusal :=
  (s.advance.drawn.setRandom x s.rndInput nn).complete false

end Sys2Proof.Machine
end

