-- ==== Sys2Proof/Machine/Control.lean ====
section
/-! DEFINITION. Control transfer (spec/41_control_transfer.md): RET, JP, CALL, SE, SNE.

A meaning is applied to the state in which the step began, `pc` = `pc0` (log entry 1): it makes the advance of R73 itself,
and a fault is raised on that very state, so nothing of the step is left in it (R136). -/

namespace Sys2Proof.Machine

/-- RET (R90): pop an address into `pc`; with an empty stack the fault StackUnderflow (R132). -/
def execRet (s : State) : Host.Outcome State Fault Refusal :=
  match s.top with
  | none => s.raise .stackUnderflow (encode .ret)
  | some target => (s.dropTop.setPc target).complete false

/-- JP nnn (R91): the target is absolute and unchecked. -/
def execJp (nnn : Addr) (s : State) : Host.Outcome State Fault Refusal :=
  (s.setPc (zextAddr nnn)).complete false

/-- CALL nnn (R92): push the advanced `pc`, then jump; with a full stack the fault ResourceExhaustion (R134). -/
def execCall (nnn : Addr) (s : State) : Host.Outcome State Fault Refusal :=
  if s.depth = s.params.stackCeiling then s.raise .resourceExhaustion (encode (.call nnn))
  else ((s.push s.advance.pc).setPc (zextAddr nnn)).complete false

/-- Skip the next instruction or not (R93, R94): one more advance by 2, not bounds-checked. -/
def State.skipIf (s : State) (taken : Bool) : State := if taken then s.advance.advance else s.advance

/-- SE Vx, nn (R93): skip if `V[x]` equals the immediate. -/
def execSe (x : Reg) (nn : Byte) (s : State) : Host.Outcome State Fault Refusal :=
  (s.skipIf (s.reg x == nn)).complete false

/-- SNE Vx, nn (R94): skip if `V[x]` differs from the immediate. -/
def execSne (x : Reg) (nn : Byte) (s : State) : Host.Outcome State Fault Refusal :=
  (s.skipIf (s.reg x != nn)).complete false

end Sys2Proof.Machine
end

