-- ==== Sys2Proof/Machine/Display.lean ====
section
/-! DEFINITION. The display family (spec/43_display.md): CLS and DRW, the sprite engine with XOR and collision. The draw
is R111's own loop; the closed form of the same rule is a statement about it. -/

namespace Sys2Proof.Machine

/-- CLS (R110): every cell to 0; always reports a change. -/
def execCls (s : State) : Host.Outcome State Fault Refusal :=
  (s.advance.setDisplay Display.blank).complete true

/-- What the loop of R111 carries: the display so far, `collision` and `changed`. -/
structure Drawing where
  display : Display
  collision : Bool
  changed : Bool
  deriving DecidableEq, Repr

/-- One sprite pixel at display row `row` and column `col` (R113, R114): dropped past the bottom or right edge, without
effect when the sprite bit is 0, else the cell is toggled, and it is a collision when the cell was lit. -/
def drawPixel (g : Drawing) (row col : Nat) (bit : Bool) : Drawing :=
  if h : row < 32 ∧ col < 64 then
    if bit then
      { display := g.display.set row ((g.display[row]'h.1).set col (!(g.display[row]'h.1)[col]'h.2) h.2) h.1
        collision := g.collision || (g.display[row]'h.1)[col]'h.2
        changed := true }
    else g
  else g

/-- One sprite row (R113): columns `x0` to `x0 + 7`, bit 7 first. -/
def drawRow (g : Drawing) (byte : Byte) (row x0 : Nat) : Drawing :=
  (List.range 8).foldl (fun g c => drawPixel g row (x0 + c) (spritePixel byte c)) g

/-- The loop over the n sprite rows (R111): byte r of the sprite goes to display row `y0 + r`. -/
def drawSprite (mem : Memory) (base : Word) (x0 y0 n : Nat) (d : Display) : Drawing :=
  (List.range n).foldl (fun g r => drawRow g (mem.byteAt (spriteAddr base r)) (y0 + r) x0)
    { display := d, collision := false, changed := false }

/-- The drawing DRW makes in a state: all operands are read from it before any write (R12, R111). -/
def State.drawing (s : State) (x y : Reg) (n : Nat) : Drawing :=
  drawSprite s.mem s.i (startColumn (s.reg x)) (startRow (s.reg y)) n s.display

/-- DRW Vx, Vy, n (R111): the whole sprite range is checked before anything is drawn (R112). -/
def execDrw (x y : Reg) (n : Nat) (s : State) : Host.Outcome State Fault Refusal :=
  if spriteOutOfBounds s.i n then s.raise .outOfBoundsAccess (encode (.drw x y n))
  else
    ((s.advance.setDisplay (s.drawing x y n).display).setCollision (s.drawing x y n).collision).complete
      (s.drawing x y n).changed

end Sys2Proof.Machine
end

