-- ==== Sys2Proof/Machine/Dispatch.lean ====
section
/-! DEFINITION. One arm per instruction, each one call of its meaning (spec/40_step_cycle.md R75). -/

namespace Sys2Proof.Machine

/-- Execute an instruction in the state in which its step began (log entry 1). -/
def exec (i : Instr) (s : State) : Host.Outcome State Fault Refusal :=
  match i with
  | .cls => Sys2Proof.Machine.execCls s
  | .ret => Sys2Proof.Machine.execRet s
  | .jp nnn => Sys2Proof.Machine.execJp nnn s
  | .call nnn => Sys2Proof.Machine.execCall nnn s
  | .se x nn => Sys2Proof.Machine.execSe x nn s
  | .sne x nn => Sys2Proof.Machine.execSne x nn s
  | .ldImm x nn => Sys2Proof.Machine.execLdImm x nn s
  | .addImm x nn => Sys2Proof.Machine.execAddImm x nn s
  | .ldReg x y => Sys2Proof.Machine.execLdReg x y s
  | .subn x y => Sys2Proof.Machine.execSubn x y s
  | .ldI nnn => Sys2Proof.Machine.execLdI nnn s
  | .rnd x nn => Sys2Proof.Machine.execRnd x nn s
  | .drw x y n => Sys2Proof.Machine.execDrw x y n s

end Sys2Proof.Machine
end

