-- ==== Sys2Proof/Machine/Cycle.lean ====
section
/-! DEFINITION. The step cycle (spec/40_step_cycle.md R78): latch, phase, fetch, decode, dispatch; and placing an
instruction's bytes where the next fetch reads them. -/

namespace Sys2Proof.Machine

/-- Line 2 of R78: `phase <- RUN`. -/
def State.begin (s : State) : State := { s with phase := .run }

/-- The fetch (R72): the two bytes at `pc`, high byte first; none when `pc + 1` is past 0xFFF. -/
def State.fetch (s : State) : Option Word := s.mem.read2 s.pc.toNat

/-- STEP (R78): a latched fault first (R71), then the fetch bound, then decode, then the instruction (R135). -/
def cycle (s : State) : Host.Outcome State Fault Refusal :=
  if s.faulted then s.refault
  else
    match s.fetch with
    | none => s.begin.raise .outOfBoundsAccess 0x0000
    | some w =>
      match decode w with
      | .error _ => s.begin.raise .unsupportedOpcode w
      | .ok i => exec i s.begin

/-- Store an instruction word where the next fetch reads it, high byte first (R34). -/
def State.placeWord (s : State) (w : Word) : State :=
  { s with mem := (s.mem.write1 s.pc.toNat (hiByte w)).write1 (s.pc.toNat + 1) (loByte w) }

end Sys2Proof.Machine
end

