-- ==== Sys2Proof/Machine/Step.lean ====
section
/-! DEFINITION. The step, and a state with a given instruction placed where the step fetches its next one. -/

namespace Sys2Proof.Machine

/-- One STEP (spec/40_step_cycle.md R70, R78). -/
def step (s : State) : Host.Outcome State Fault Refusal := cycle s

/-- The state with the instruction of an opcode-table row (its `nbits` bits are `w`) stored at `pc`; nothing else
changes. It stands for the load of a program (log entry 7). -/
def State.withFetchWord (s : State) (nbits w : Nat) : State := s.placeWord (tableWord nbits w)

end Sys2Proof.Machine
end

