-- ==== Sys2Proof/Machine/HostOps.lean ====
section
/-! DEFINITION. The host's operations other than STEP (spec/70_reset_and_hazards.md R160 to R164) and its read ports
(spec/10_state.md R27). -/

namespace Sys2Proof.Machine

/-- RESET (R160): every piece of state to its reset value (R26), at any time. The instance's parameters and the external
random source are no state of the core (R23) and keep what they hold. -/
def State.hostReset (s : State) : State := State.resetWith s.params s.draws

/-- LOAD_PROGRAM (R162): copy the bytes to 0x200 and on. The two preconditions of R163 are refused when they fail: "this
spec gives such a call no meaning, and a model must refuse it". -/
def loadProgram (rom : List Byte) (s : State) : Host.Outcome State Fault Refusal :=
  if s.phase ≠ .created then .refused .loadProgramAfterStart
  else if rom.length > Config.romMax then .refused .programTooLong
  else .next { s with mem := s.mem.writeBytes Config.progBase rom, phase := .run }

/-- What the host can ask of the core (R161). -/
inductive HostOp where
  | reset
  | loadProgram (rom : List Byte)
  | step
  deriving DecidableEq, Repr

/-- One operation of the host; operations never overlap (R161). -/
def hostStep (op : HostOp) (s : State) : Host.Outcome State Fault Refusal :=
  match op with
  | .reset => .next s.hostReset
  | .loadProgram rom => loadProgram rom s
  | .step => step s

/-- The read port onto the display (R27). -/
def State.displayPort (s : State) (r : Fin 32) (c : Fin 64) : Bool := s.display.cell r c

/-- The optional read port onto the variable registers (R27). -/
def State.registerPort (s : State) (x : Reg) : Byte := s.reg x

/-- The read-only view of the fault latch (R27). -/
def State.faultPort (s : State) : FaultLatch := s.fault

end Sys2Proof.Machine
end

