-- ==== Sys2Proof/Safety.lean ====
section
/-! DEFINITION. The terms claims use: a run without a fault, the Machine State a fault leaves alone, the invariant of the
core, what an instruction may write (spec/10_state.md R25), and the closed form of DRW (spec/43_display.md R111). -/

namespace Sys2Proof.Machine

/-- No fault is latched: the premise of "every claim about a program" (spec/60_exceptions.md R137). -/
abbrev State.Running (s : State) : Prop := s.fault.cause = 0

/-- The two states agree on the Machine State (R10, first six rows): `MEM`, `V`, `pc`, `I`, `STACK`, `D`. -/
abbrev State.SameMachine (s t : State) : Prop :=
  t.mem = s.mem ∧ t.v = s.v ∧ t.pc = s.pc ∧ t.i = s.i ∧ t.stack = s.stack ∧ t.display = s.display

/-- What holds from RESET on, whatever the host does. -/
structure State.Inv (s : State) : Prop where
  /-- The memory list is in canonical form: rising addresses below 4096, no listed zero. -/
  mem_canonical : s.mem.wf = true
  /-- R14: `pc` never passes 0x1002. -/
  pc_range : s.pc.toNat ≤ 0x1002
  /-- R16: bits 15:12 of `I` are 0. -/
  index_range : s.i.toNat ≤ 0xFFF
  /-- R14: a call-stack entry never passes 0x1000. -/
  entry_range : ∀ e ∈ s.stack, e.toNat ≤ 0x1000
  /-- R17: the stack never holds more than `STACK_CEILING` entries. -/
  depth_range : s.depth ≤ s.params.stackCeiling
  /-- R5: `STACK_CEILING` is at least 1. -/
  ceiling_pos : 1 ≤ s.params.stackCeiling
  /-- R21: the cause codes 5 to 7 never occur. -/
  cause_legal : s.fault.cause.toNat ≤ 4
  /-- R137: while no fault is latched, the latch holds its reset value. -/
  latch_clear : s.fault.cause = 0 → s.fault = FaultLatch.clear
  /-- R136: a latched fault holds the address `pc` still has, and is the last result. -/
  latch_reported : s.fault.cause ≠ 0 →
    s.fault.fpc = s.pc ∧ s.out = .fault s.fault.cause s.fault.fpc s.fault.fop
  /-- R22: with `phase` = CREATED nothing has happened since RESET. -/
  created_is_reset : s.phase = .created → s = State.resetWith s.params s.draws

/-- The variable registers an instruction may write (R25): its destination, and VF where it has a flag side effect. -/
def writtenRegs : Instr → List Reg
  | .cls => []
  | .ret => []
  | .jp _ => []
  | .call _ => []
  | .se _ _ => []
  | .sne _ _ => []
  | .ldImm x _ => [x]
  | .addImm x _ => [x]
  | .ldReg x _ => [x]
  | .subn x _ => [x, VF]
  | .ldI _ => []
  | .rnd x _ => [x]
  | .drw _ _ _ => [VF]

/-- The instructions that write `I` (R15). -/
def writesIndex : Instr → Bool
  | .ldI _ => true
  | .cls | .ret | .jp _ | .call _ | .se _ _ | .sne _ _ | .ldImm _ _ | .addImm _ _ | .ldReg _ _ | .subn _ _ | .rnd _ _
  | .drw _ _ _ => false

/-- The instructions that write `STACK` (R17). -/
def writesStack : Instr → Bool
  | .ret | .call _ => true
  | .cls | .jp _ | .se _ _ | .sne _ _ | .ldImm _ _ | .addImm _ _ | .ldReg _ _ | .subn _ _ | .ldI _ | .rnd _ _
  | .drw _ _ _ => false

/-- The instructions that write `D` (R19). -/
def writesDisplay : Instr → Bool
  | .cls | .drw _ _ _ => true
  | .ret | .jp _ | .call _ | .se _ _ | .sne _ _ | .ldImm _ _ | .addImm _ _ | .ldReg _ _ | .subn _ _ | .ldI _
  | .rnd _ _ => false

/-- The instructions that draw a random byte (R79). -/
def drawsRandom : Instr → Bool
  | .rnd _ _ => true
  | .cls | .ret | .jp _ | .call _ | .se _ _ | .sne _ _ | .ldImm _ _ | .addImm _ _ | .ldReg _ _ | .subn _ _ | .ldI _
  | .drw _ _ _ => false

/-- `s(row, col)` of R111: the sprite bit that lands on a display cell, 0 where none does. -/
def spriteBitAt (mem : Memory) (base : Word) (x0 y0 n row col : Nat) : Bool :=
  if y0 ≤ row ∧ row ≤ 31 ∧ row < y0 + n ∧ x0 ≤ col ∧ col ≤ 63 ∧ col ≤ x0 + 7 then
    (mem.byteAt (base.toNat + (row - y0))).getLsbD (7 - (col - x0))
  else false

/-- `s(row, col)` for a DRW in a state: `x0 = V[x] mod 64`, `y0 = V[y] mod 32`, the sprite at `I` (R111, R113). -/
def State.spriteBit (s : State) (x y : Reg) (n : Nat) (r : Fin 32) (c : Fin 64) : Bool :=
  spriteBitAt s.mem s.i ((s.reg x).toNat % 64) ((s.reg y).toNat % 32) n r.val c.val

/-- The outcome with a function applied to its next state, if it has one. -/
def mapNext (f : State → State) : Host.Outcome State Fault Refusal → Host.Outcome State Fault Refusal
  | .next s => .next (f s)
  | .fault r => .fault r
  | .refused r => .refused r

end Sys2Proof.Machine
end

