-- ==== Sys2Proof/Certificates/Slice0/Obligations.lean ====
section
/-! DEFINITION. The statements about the core, for the provers. "Log entry <n>" is notes/assumptions/<n>.md; "D<n>" is a
decision of spec/92_eei_decisions.md, the spec's own choice. The exec of an instruction is applied to the state in which
its step began (log entry 1), `out` is the value STEP returns (log entry 3), and a fault is a next state (log entry 2). -/

open Sys2Proof Sys2Proof.Machine

/-! ### Encoding -/

/-- Sample words of every family, written out from spec/30_encoding.md R54 and spec/95_test_vectors.md 2.1, decode to the
instructions they stand for, and the nearest misses to none. Nine of the numeric encodings are the spec's decision D19
(log entry 8). -/
def Obligations.SampleWordsDecode : Prop :=
  decode 0x00E0 = .ok .cls ∧ decode 0x00EE = .ok .ret ∧ decode 0x1FFF = .ok (.jp 0xFFF) ∧
  decode 0x2206 = .ok (.call 0x206) ∧ decode 0x3008 = .ok (.se 0 0x08) ∧ decode 0x4F01 = .ok (.sne 15 0x01) ∧
  decode 0x6005 = .ok (.ldImm 0 0x05) ∧ decode 0x7F01 = .ok (.addImm 15 0x01) ∧ decode 0x8120 = .ok (.ldReg 1 2) ∧
  decode 0x8127 = .ok (.subn 1 2) ∧ decode 0xA300 = .ok (.ldI 0x300) ∧ decode 0xC10F = .ok (.rnd 1 0x0F) ∧
  decode 0xD012 = .ok (.drw 0 1 2) ∧
  decode 0x0000 = .error (.unsupported 0x0000) ∧ decode 0x00E1 = .error (.unsupported 0x00E1) ∧
  decode 0x8126 = .error (.unsupported 0x8126) ∧ decode 0x8128 = .error (.unsupported 0x8128)

/-- Decode and encode agree: every well-formed instruction's word, and its two bytes in memory order whatever follows
them, decode to that instruction with every operand (R50, R54, R57; the numeric encodings by D19). -/
def Obligations.EncodeThenDecode : Prop :=
  ∀ (i : Instr) (rest : List Byte), i.wf = true →
    decode (encode i) = .ok i ∧ decodeBytes (encodeBytes i ++ rest) = .ok (i, rest)

/-- Where a word decodes, encoding gives the word back, and the instruction is well-formed (R54, R57): no bit of a
supported word is ignored. -/
def Obligations.DecodeThenEncode : Prop :=
  ∀ (w : Word) (i : Instr), decode w = .ok i → encode i = w ∧ i.wf = true

/-- The unsupported words are those of the table of R55, by top nibble and low nibble, and decode rejects a word in no
other way (R55, R57; D18, D19, D25). -/
def Obligations.UnsupportedWordsAreThoseOfTheTable : Prop :=
  ∀ w : Word,
    (∀ e, decode w = .error e → e = .unsupported w) ∧
    (decode w = .error (.unsupported w) ↔
      (w.toNat / 4096 = 0x0 ∧ w ≠ 0x00E0 ∧ w ≠ 0x00EE) ∨ w.toNat / 4096 = 0x5 ∨
      (w.toNat / 4096 = 0x8 ∧ w.toNat % 16 ≠ 0x0 ∧ w.toNat % 16 ≠ 0x7) ∨ w.toNat / 4096 = 0x9 ∨
      w.toNat / 4096 = 0xB ∨ w.toNat / 4096 = 0xE ∨ w.toNat / 4096 = 0xF)

/-- The opcode map of R54, row by row: a word selects an instruction exactly when its masked bits match (D18, D19, D25). -/
def Obligations.OpcodeMapMaskAndMatch : Prop :=
  ∀ w : Word,
    (decode w = .ok .cls ↔ w &&& 0xFFFF = 0x00E0) ∧
    (decode w = .ok .ret ↔ w &&& 0xFFFF = 0x00EE) ∧
    ((∃ nnn, decode w = .ok (.jp nnn)) ↔ w &&& 0xF000 = 0x1000) ∧
    ((∃ nnn, decode w = .ok (.call nnn)) ↔ w &&& 0xF000 = 0x2000) ∧
    ((∃ x nn, decode w = .ok (.se x nn)) ↔ w &&& 0xF000 = 0x3000) ∧
    ((∃ x nn, decode w = .ok (.sne x nn)) ↔ w &&& 0xF000 = 0x4000) ∧
    ((∃ x nn, decode w = .ok (.ldImm x nn)) ↔ w &&& 0xF000 = 0x6000) ∧
    ((∃ x nn, decode w = .ok (.addImm x nn)) ↔ w &&& 0xF000 = 0x7000) ∧
    ((∃ x y, decode w = .ok (.ldReg x y)) ↔ w &&& 0xF00F = 0x8000) ∧
    ((∃ x y, decode w = .ok (.subn x y)) ↔ w &&& 0xF00F = 0x8007) ∧
    ((∃ nnn, decode w = .ok (.ldI nnn)) ↔ w &&& 0xF000 = 0xA000) ∧
    ((∃ x nn, decode w = .ok (.rnd x nn)) ↔ w &&& 0xF000 = 0xC000) ∧
    ((∃ x y n, decode w = .ok (.drw x y n)) ↔ w &&& 0xF000 = 0xD000)

/-- The fields of an instruction word (R51), as numbers of the word and of its two bytes in memory: op, x, y, n are its
nibbles from the top, nn is the second byte and {y, n}, nnn the low 12 bits and {x, y, n}. -/
def Obligations.FieldsOfTheInstructionWord : Prop :=
  (∀ w : Word,
    (opField w).toNat = w.toNat / 4096 ∧ (xField w).val = w.toNat / 256 % 16 ∧ (yField w).val = w.toNat / 16 % 16 ∧
    nField w = w.toNat % 16 ∧ (nnField w).toNat = w.toNat % 256 ∧ (nnnField w).toNat = w.toNat % 4096 ∧
    (nnField w).toNat = (yField w).val * 16 + nField w ∧
    (nnnField w).toNat = (xField w).val * 256 + (yField w).val * 16 + nField w) ∧
  (∀ hi lo : Byte,
    (opField (wordOfBytes hi lo)).toNat = hi.toNat / 16 ∧ (xField (wordOfBytes hi lo)).val = hi.toNat % 16 ∧
    (yField (wordOfBytes hi lo)).val = lo.toNat / 16 ∧ nField (wordOfBytes hi lo) = lo.toNat % 16 ∧
    nnField (wordOfBytes hi lo) = lo)

/-! ### The step cycle -/

/-- A step runs the decoded instruction (R75, R78): with no fault latched and both bytes at `pc` inside memory, decoding
to `i`, the step is the exec of `i` at that state with `phase` set to RUN, and nothing else around it. `pc` may be odd or
below 0x200 (D17, D27). -/
def Obligations.StepRunsTheDecodedInstruction : Prop :=
  ∀ (s : State) (i : Instr), s.Running → s.pc.toNat ≤ 0xFFE →
    decode (wordOfBytes (s.mem.byteAt s.pc.toNat) (s.mem.byteAt (s.pc.toNat + 1))) = .ok i →
    step s = exec i { s with phase := .run }

/-- The state built for the host's row checks runs its word next: with the word of an opcode-table row placed at `pc`, the
step is the exec of what the decoder reads from it. Placing the word is the model's stand-in for a program load (log
entry 7). -/
def Obligations.PlacedTableWordIsRunNext : Prop :=
  ∀ (s : State) (w : Nat) (i : Instr), s.Running → s.mem.wf = true → s.pc.toNat ≤ 0xFFE →
    decodeTableWord 16 w = some i →
    step (s.withFetchWord 16 w) = exec i { s.withFetchWord 16 w with phase := .run }

/-- The fetch at or past 0xFFF (R72, R133): OutOfBoundsAccess, code 3, with the instruction word 0 in the record; nothing
but `phase`, the latch and the result changes (D5, D6, D7, D28; log entry 2). -/
def Obligations.FetchPastEndOfMemoryFaults : Prop :=
  ∀ s : State, s.Running → 0xFFF ≤ s.pc.toNat →
    step s = .next { s with
      phase := .run
      fault := { cause := 3, fpc := s.pc, fop := 0x0000 }
      out := .fault 3 s.pc 0x0000 }

/-- A word that is no instruction (R131): UnsupportedOpcode, code 1, with the fetch address and the word; never a no-op
(D5, D6, D7; log entry 2). -/
def Obligations.UnsupportedWordFaults : Prop :=
  ∀ (s : State) (w : Word), s.Running → s.pc.toNat ≤ 0xFFE →
    w = wordOfBytes (s.mem.byteAt s.pc.toNat) (s.mem.byteAt (s.pc.toNat + 1)) → (∀ i, decode w ≠ .ok i) →
    step s = .next { s with
      phase := .run
      fault := { cause := 1, fpc := s.pc, fop := w }
      out := .fault 1 s.pc w }

/-- STEP after a fault (R71, decision D8): no state changes, and the same fault is returned again. -/
def Obligations.LatchedFaultIsReturnedAgain : Prop :=
  ∀ s : State, ¬ s.Running →
    step s = .next { s with out := .fault s.fault.cause s.fault.fpc s.fault.fop }

/-- The latch is sticky over any number of steps (R137, decision D8): nothing but the returned result is ever different. -/
def Obligations.LatchIsStickyOverAnyRun : Prop :=
  ∀ (k : Nat) (s : State), ¬ s.Running →
    Host.Core.run Sys2Proof.core (k + 1) s =
      .next { s with out := .fault s.fault.cause s.fault.fpc s.fault.fop }

/-- A step always returns (R147): no step is stuck, and no instruction blocks. -/
def Obligations.EveryStepReturns : Prop :=
  (∀ s : State, ∃ t, step s = .next t) ∧ (∀ (i : Instr) (s : State), ∃ t, exec i s = .next t)

/-- Faults are precise and their record says what happened: a step that faults leaves the Machine State, the parameters
and the random source alone, and latches one of the rows of the table of R130 with `fpc` the fetch address and `fop` the
word there (0 when it could not be fetched). Rests on D5, D6, D7 (log entries 2 and 9). -/
def Obligations.FaultsArePreciseAndRecorded : Prop :=
  ∀ s t : State, s.Running → step s = .next t → ¬ t.Running →
    s.SameMachine t ∧ t.phase = .run ∧ t.params = s.params ∧ t.draws = s.draws ∧
    t.fault.fpc = s.pc ∧ t.out = .fault t.fault.cause t.fault.fpc t.fault.fop ∧
    (0xFFF ≤ s.pc.toNat → t.fault.cause = 3 ∧ t.fault.fop = 0x0000) ∧
    (s.pc.toNat ≤ 0xFFE →
      t.fault.fop = wordOfBytes (s.mem.byteAt s.pc.toNat) (s.mem.byteAt (s.pc.toNat + 1)) ∧
      ((t.fault.cause = 1 ∧ ∀ i, decode t.fault.fop ≠ .ok i) ∨
       (t.fault.cause = 2 ∧ t.fault.fop = 0x00EE ∧ s.stack = []) ∨
       (t.fault.cause = 3 ∧ ∃ x y n, decode t.fault.fop = .ok (.drw x y n) ∧ n > 0 ∧ s.i.toNat + n - 1 > 0xFFF) ∨
       (t.fault.cause = 4 ∧ ∃ nnn, decode t.fault.fop = .ok (.call nnn) ∧ s.stack.length = s.params.stackCeiling)))

/-- The advance of R73: in a completed step `pc` has been advanced by 2 without wrapping before the instruction wrote it,
so that CALL pushes the advanced value, SE and SNE add 2 to it, JP, CALL and RET overwrite it, and every other
instruction leaves it. -/
def Obligations.CompletedStepAdvancesThePc : Prop :=
  ∀ (s t : State) (changed : Bool), step s = .next t → t.out = .ok changed →
    s.pc.toNat ≤ 0xFFE ∧
    ∃ i, decode (wordOfBytes (s.mem.byteAt s.pc.toNat) (s.mem.byteAt (s.pc.toNat + 1))) = .ok i ∧
      match i with
      | .jp nnn => t.pc.toNat = nnn.toNat
      | .call nnn => t.pc.toNat = nnn.toNat ∧ ∃ e, t.stack = s.stack ++ [e] ∧ e.toNat = s.pc.toNat + 2
      | .ret => s.stack.getLast? = some t.pc
      | .se x nn => t.pc.toNat = s.pc.toNat + 2 + (if s.reg x = nn then 2 else 0)
      | .sne x nn => t.pc.toNat = s.pc.toNat + 2 + (if s.reg x = nn then 0 else 2)
      | .cls | .ldImm _ _ | .addImm _ _ | .ldReg _ _ | .subn _ _ | .ldI _ | .rnd _ _ | .drw _ _ _ =>
        t.pc.toNat = s.pc.toNat + 2

/-- No `pc` value above 0x1002 is ever computed (R14, an inference the spec marks as its own), from an arbitrary 16-bit
start value of `pc`. -/
def Obligations.NoStepComputesAPcAbove1002 : Prop :=
  ∀ s t : State, (∀ e ∈ s.stack, e.toNat ≤ 0x1000) → step s = .next t → t.pc = s.pc ∨ t.pc.toNat ≤ 0x1002

/-- The display-changed result (R76): a completed CLS returns true always, a completed DRW true exactly when a cell of the
display differs, every other instruction false; and an instruction returns either that or a fault, which has no such
value (D30). -/
def Obligations.DisplayChangedResult : Prop :=
  ∀ (i : Instr) (s t : State), exec i s = .next t →
    (∃ changed, t.out = .ok changed ∧ t.fault = s.fault ∧
      match i with
      | .cls => changed = true
      | .drw _ _ _ => (changed = true ↔ ∃ r c, t.display.cell r c ≠ s.display.cell r c)
      | .ret | .jp _ | .call _ | .se _ _ | .sne _ _ | .ldImm _ _ | .addImm _ _ | .ldReg _ _ | .subn _ _ | .ldI _
      | .rnd _ _ => changed = false) ∨
    (t.out = .fault t.fault.cause t.fault.fpc t.fault.fop ∧ t.fault.cause ≠ 0 ∧ s.SameMachine t)

/-! ### Control transfer -/

/-- RET (R90, R132): with a stack that ends in `target` it pops that entry into `pc`, unchecked, and completes; with an
empty stack it is StackUnderflow, code 2, and nothing but the latch and the result changes (D5, D6, D7; log entry 2). -/
def Obligations.ReturnPopsOrUnderflows : Prop :=
  (∀ (s : State) (below : List Word) (target : Word), s.stack = below ++ [target] →
    exec .ret s = .next { s with pc := target, stack := below, out := .ok false }) ∧
  (∀ s : State, s.stack = [] →
    exec .ret s = .next { s with
      fault := { cause := 2, fpc := s.pc, fop := 0x00EE }
      out := .fault 2 s.pc 0x00EE })

/-- JP nnn (R91): `pc` becomes the zero-extended target, whatever it is, and nothing else changes. -/
def Obligations.JumpSetsThePc : Prop :=
  ∀ (s : State) (nnn : Addr),
    exec (.jp nnn) s = .next { s with pc := BitVec.ofNat 16 nnn.toNat, out := .ok false }

/-- CALL nnn (R92, R134): below the ceiling it pushes the address after the CALL and jumps; with the stack holding
`STACK_CEILING` entries it is ResourceExhaustion, code 4, nothing pushed and `pc` not redirected (D4, D5, D6, D7; log
entries 2 and 4; the word in the record by D19). -/
def Obligations.CallPushesOrExhausts : Prop :=
  (∀ (s : State) (nnn : Addr), s.stack.length ≠ s.params.stackCeiling →
    exec (.call nnn) s = .next { s with
      pc := BitVec.ofNat 16 nnn.toNat
      stack := s.stack ++ [s.pc + 2]
      out := .ok false }) ∧
  (∀ (s : State) (nnn : Addr), s.stack.length = s.params.stackCeiling →
    exec (.call nnn) s = .next { s with
      fault := { cause := 4, fpc := s.pc, fop := BitVec.ofNat 16 (0x2000 + nnn.toNat) }
      out := .fault 4 s.pc (BitVec.ofNat 16 (0x2000 + nnn.toNat)) })

/-- SE and SNE (R93, R94): `pc` moves 4 on when the condition holds and 2 when it does not, unchecked (D29); nothing else
changes, and in every state exactly one of the two skips. -/
def Obligations.SkipsMoveThePc : Prop :=
  (∀ (s : State) (x : Reg) (nn : Byte), s.reg x = nn →
    exec (.se x nn) s = .next { s with pc := s.pc + 4, out := .ok false } ∧
    exec (.sne x nn) s = .next { s with pc := s.pc + 2, out := .ok false }) ∧
  (∀ (s : State) (x : Reg) (nn : Byte), s.reg x ≠ nn →
    exec (.se x nn) s = .next { s with pc := s.pc + 2, out := .ok false } ∧
    exec (.sne x nn) s = .next { s with pc := s.pc + 4, out := .ok false })

/-- The round trip of R96 (an inference the spec marks as its own): a CALL below the ceiling, and later a RET in any state
with the same stack, give `pc` the address after the CALL and the stack what it was. -/
def Obligations.CallThenReturnRoundTrip : Prop :=
  ∀ (s : State) (nnn : Addr), s.stack.length ≠ s.params.stackCeiling →
    ∃ t, exec (.call nnn) s = .next t ∧ t.stack.length = s.stack.length + 1 ∧
      ∀ u : State, u.stack = t.stack →
        ∃ r, exec .ret u = .next r ∧ r.pc = s.pc + 2 ∧ r.stack = s.stack

/-- `JP a` at address `a` is a fixed point of STEP once `phase` is RUN (R80, an inference the spec marks as its own): only
the returned result, `Ok(false)`, is set (log entry 3). -/
def Obligations.SelfJumpIsAFixedPoint : Prop :=
  ∀ (s : State) (a : Addr), s.Running → s.phase = .run → s.pc.toNat ≤ 0xFFE → s.pc.toNat = a.toNat →
    decode (wordOfBytes (s.mem.byteAt s.pc.toNat) (s.mem.byteAt (s.pc.toNat + 1))) = .ok (.jp a) →
    step s = .next { s with out := .ok false }

/-! ### Register and ALU -/

/-- LD Vx, nn (R100): the word 0x6000 + x * 256 + nn is it, and it sets `V[x]` to nn, whatever x is, and nothing else but
`pc`. -/
def Obligations.LoadImmediate : Prop :=
  ∀ (s : State) (x : Reg) (nn : Byte),
    decode (BitVec.ofNat 16 (0x6000 + x.val * 256 + nn.toNat)) = .ok (.ldImm x nn) ∧
    exec (.ldImm x nn) s = .next { s with v := s.v.set x nn, pc := s.pc + 2, out := .ok false }

/-- ADD Vx, nn (R101): the word 0x7000 + x * 256 + nn is it; the sum wraps modulo 256, and no flag is written: every other
register, VF included when x is not 0xF, keeps its value. -/
def Obligations.AddImmediateWrapsWithoutFlag : Prop :=
  ∀ (s : State) (x : Reg) (nn : Byte),
    decode (BitVec.ofNat 16 (0x7000 + x.val * 256 + nn.toNat)) = .ok (.addImm x nn) ∧
    ∃ t, exec (.addImm x nn) s = .next t ∧
      (t.reg x).toNat = ((s.reg x).toNat + nn.toNat) % 256 ∧ (∀ z, z ≠ x → t.reg z = s.reg z) ∧
      t = { s with v := t.v, pc := s.pc + 2, out := .ok false }

/-- LD Vx, Vy (R102): `V[x]` becomes `V[y]`; nothing else but `pc` changes, and nothing at all but `pc` when x = y. -/
def Obligations.RegisterCopy : Prop :=
  ∀ (s : State) (x y : Reg),
    exec (.ldReg x y) s = .next { s with v := s.v.set x (s.reg y), pc := s.pc + 2, out := .ok false } ∧
    s.v.set x (s.reg x) = s.v

/-- SUBN Vx, Vy (R103): with a the old `V[x]` and b the old `V[y]`, `V[x]` becomes (b - a) mod 256 and then VF becomes 1
when b >= a and 0 when not, over the result when x = 0xF; nothing else but `pc` changes. -/
def Obligations.ReverseSubtractWithNoBorrowFlag : Prop :=
  ∀ (s : State) (x y : Reg),
    ∃ t, exec (.subn x y) s = .next t ∧
      (x ≠ VF → (t.reg x).toNat = ((s.reg y).toNat + 256 - (s.reg x).toNat) % 256) ∧
      t.reg VF = (if (s.reg y).toNat ≥ (s.reg x).toNat then 0x01 else 0x00) ∧
      (∀ z, z ≠ x → z ≠ VF → t.reg z = s.reg z) ∧
      t = { s with v := t.v, pc := s.pc + 2, out := .ok false }

/-- LD I, nnn (R104): the word 0xA000 + nnn is it, and it sets `I` to the zero-extended immediate, unchecked, and nothing
else but `pc`; no other instruction changes `I`. -/
def Obligations.SetIndex : Prop :=
  (∀ (s : State) (nnn : Addr),
    decode (BitVec.ofNat 16 (0xA000 + nnn.toNat)) = .ok (.ldI nnn) ∧
    exec (.ldI nnn) s = .next { s with i := BitVec.ofNat 16 nnn.toNat, pc := s.pc + 2, out := .ok false }) ∧
  (∀ (i : Instr) (s t : State), exec i s = .next t → t.i ≠ s.i → ∃ nnn, i = .ldI nnn)

/-- RND Vx, nn (R105, R79): `V[x]` becomes the random byte AND nn, so no bit outside nn is 1; one byte is drawn from the
source, and nothing else but `pc` changes. The byte is a free value (log entry 5): the statement holds whatever it is. -/
def Obligations.RandomByteAndImmediate : Prop :=
  ∀ (s : State) (x : Reg) (nn : Byte),
    ∃ t, exec (.rnd x nn) s = .next t ∧
      t = { s with
        v := s.v.set x (Config.randomByte s.draws &&& nn)
        pc := s.pc + 2
        draws := s.draws + 1
        out := .ok false } ∧
      t.reg x &&& ~~~nn = 0

/-- The sixteen variable registers (R11): each is read and written independently, none is hard-wired, VF is one of them,
and each is 0x00 at reset; an `x` and a `y` field reach every one of them. -/
def Obligations.VariableRegistersAreIndependent : Prop :=
  (∀ (s : State) (x z : Reg) (b : Byte), (s.setReg x b).reg z = if z = x then b else s.reg z) ∧
  (∀ (s : State) (x : Reg) (b : Byte), s.setReg x b = { s with v := (s.setReg x b).v }) ∧
  (∀ x : Reg, State.reset.reg x = 0x00) ∧
  (∀ (s : State) (x y : Reg) (b : Byte), ∃ t u, exec (.ldImm y b) s = .next t ∧ exec (.ldReg x y) t = .next u ∧
    u.reg x = b ∧ u.reg y = b ∧ ∀ z, z ≠ x → z ≠ y → u.reg z = s.reg z)

/-- The flag law of R12: the operands are read before any write, the flag is written after the result and overwrites it;
SUBN always writes VF, DRW writes it, to 1, exactly when some previously lit cell is toggled off, and no other
instruction changes VF except as its ordinary destination. -/
def Obligations.FlagIsWrittenAfterTheResult : Prop :=
  ∀ (i : Instr) (s t : State), exec i s = .next t →
    match i with
    | .subn x y =>
      t.reg VF = (if (s.reg y).toNat ≥ (s.reg x).toNat then 0x01 else 0x00) ∧
      (x ≠ VF → t.reg x = s.reg y - s.reg x)
    | .drw _ _ _ =>
      ((∃ r c, s.display.cell r c = true ∧ t.display.cell r c = false) → t.reg VF = 0x01) ∧
      ((∀ r c, s.display.cell r c = true → t.display.cell r c = true) → t.reg VF = s.reg VF)
    | .cls | .ret | .jp _ | .call _ | .se _ _ | .sne _ _ | .ldI _ => t.reg VF = s.reg VF
    | .ldImm x _ | .addImm x _ | .ldReg x _ | .rnd x _ => x ≠ VF → t.reg VF = s.reg VF

/-! ### Display -/

/-- CLS (R110): the word 0x00E0 is it; every cell becomes 0 and the result is always `Ok(true)`; nothing else but `pc`
changes. -/
def Obligations.ClearScreen : Prop :=
  decode 0x00E0 = .ok .cls ∧
  ∀ s : State, ∃ t, exec .cls s = .next t ∧ (∀ r c, t.display.cell r c = false) ∧
    t = { s with display := t.display, pc := s.pc + 2, out := .ok true }

/-- DRW is its closed form (R111): a sprite inside memory is XORed cell by cell, `changed` is whether some sprite bit
lands on a cell, and VF becomes 1 exactly when one lands on a lit cell and is not written otherwise; nothing else but
`pc` changes. The model draws pixel by pixel, as the rule's loop does. Rests on D9, D10, D11, D12, D13, D26 (log entry
10). -/
def Obligations.DrawIsItsClosedForm : Prop :=
  ∀ (s : State) (x y : Reg) (n : Nat), ¬ (n > 0 ∧ s.i.toNat + n - 1 > 0xFFF) →
    ∃ t, exec (.drw x y n) s = .next t ∧
      (∀ r c, t.display.cell r c = (s.display.cell r c ^^ s.spriteBit x y n r c)) ∧
      t.v = (if ∃ r c, s.spriteBit x y n r c = true ∧ s.display.cell r c = true then s.v.set VF 0x01 else s.v) ∧
      t = { s with
        display := t.display
        v := t.v
        pc := s.pc + 2
        out := .ok (decide (∃ r c, s.spriteBit x y n r c = true)) }

/-- DRW past the end of memory (R112, R133): OutOfBoundsAccess, code 3, before anything is drawn, clipped rows counted
too (D5, D6, D7, D12, D13; log entries 2 and 10; the word in the record by D19). -/
def Obligations.DrawPastEndOfMemoryFaults : Prop :=
  ∀ (s : State) (x y : Reg) (n : Nat), n < 16 → n > 0 → s.i.toNat + n - 1 > 0xFFF →
    exec (.drw x y n) s = .next { s with
      fault := { cause := 3, fpc := s.pc, fop := BitVec.ofNat 16 (0xD000 + x.val * 256 + y.val * 16 + n) }
      out := .fault 3 s.pc (BitVec.ofNat 16 (0xD000 + x.val * 256 + y.val * 16 + n)) }

/-- When DRW reports a change (R116): exactly when some sprite pixel with bit 1 lies inside the display (D10, log entry
10), and that is exactly when some cell of the display differs. -/
def Obligations.DrawReportsAChangeIffACellDiffers : Prop :=
  ∀ (s : State) (x y : Reg) (n : Nat), ¬ (n > 0 ∧ s.i.toNat + n - 1 > 0xFFF) →
    ∃ t changed, exec (.drw x y n) s = .next t ∧ t.out = .ok changed ∧
      (changed = true ↔ ∃ k c, k < n ∧ c < 8 ∧ (s.reg y).toNat % 32 + k ≤ 31 ∧ (s.reg x).toNat % 64 + c ≤ 63 ∧
        (s.mem.byteAt (s.i.toNat + k)).getLsbD (7 - c) = true) ∧
      (changed = true ↔ ∃ r c, t.display.cell r c ≠ s.display.cell r c)

/-- Drawing twice undoes the first draw (R117, an inference the spec marks as its own): after a DRW, a DRW of the same
sprite at the same position in any state with the display the first left restores the display, and it collides exactly
when some cell under a sprite bit was unlit before the first. -/
def Obligations.DrawTwiceRestoresTheDisplay : Prop :=
  ∀ (s : State) (x y : Reg) (n : Nat), ¬ (n > 0 ∧ s.i.toNat + n - 1 > 0xFFF) →
    ∃ t, exec (.drw x y n) s = .next t ∧
      ∀ s' : State, s'.mem = s.mem → s'.i = s.i → s'.display = t.display →
        (s'.reg x).toNat % 64 = (s.reg x).toNat % 64 → (s'.reg y).toNat % 32 = (s.reg y).toNat % 32 →
        ∃ u, exec (.drw x y n) s' = .next u ∧ u.display = s.display ∧
          u.v = (if ∃ r c, s.spriteBit x y n r c = true ∧ s.display.cell r c = false then s'.v.set VF 0x01 else s'.v)

/-- The display as state (R19): 32 rows of 64 cells, all 0 at reset; only CLS and DRW change it, and no instruction but
DRW reads it: with any other display in its place every other instruction answers the same, but for the display it
leaves. -/
def Obligations.OnlyClearAndDrawTouchTheDisplay : Prop :=
  (∀ r c, State.reset.display.cell r c = false) ∧
  (∀ (i : Instr) (s t : State), exec i s = .next t → t.display ≠ s.display →
    i = .cls ∨ ∃ x y n, i = .drw x y n) ∧
  (∀ (i : Instr) (s : State) (d : Display), (∀ x y n, i ≠ .drw x y n) → i ≠ .cls →
    exec i { s with display := d } = mapNext (fun t => { t with display := d }) (exec i s)) ∧
  (∀ (s : State) (d : Display), exec .cls { s with display := d } = exec .cls s)

/-! ### Frames and isolation -/

/-- THE FRAME of every instruction (the access table of R25, an inference the spec marks as its own). When exec answers a
next state: every byte of memory reads as before, for all 13 instructions; LD Vx nn, ADD, LD Vx Vy and RND change no
register but Vx, SUBN none but Vx and VF, DRW none but VF, and CLS, RET, JP, CALL, SE, SNE and LD I none; only LD I
changes `I`; only RET and CALL change the stack; only CLS and DRW change the display; only RND draws a random byte;
`phase` and the parameters never change; the latch changes only when a RET, CALL or DRW faults. -/
def Obligations.FrameOfEveryInstruction : Prop :=
  ∀ (i : Instr) (s t : State), exec i s = .next t →
    (∀ a, t.mem.byteAt a = s.mem.byteAt a) ∧
    (∀ z, z ∉ writtenRegs i → t.reg z = s.reg z) ∧
    (writesIndex i = false → t.i = s.i) ∧
    (writesStack i = false → t.stack = s.stack) ∧
    (writesDisplay i = false → t.display = s.display) ∧
    (drawsRandom i = false → t.draws = s.draws) ∧
    t.phase = s.phase ∧ t.params = s.params ∧
    (∀ changed, t.out = .ok changed → t.fault = s.fault) ∧
    (t.fault ≠ s.fault → i = .ret ∨ (∃ nnn, i = .call nnn) ∨ ∃ x y n, i = .drw x y n)

/-- Memory is constant while the core runs (R38, an inference the spec marks as its own): no step changes any byte. -/
def Obligations.NoStepWritesMemory : Prop :=
  ∀ s t : State, step s = .next t → t.mem = s.mem ∧ ∀ a, t.mem.byteAt a = s.mem.byteAt a

/-- No instruction reads or writes `phase` or the fault latch (R21, R22; both are the spec's decisions D6, D15): with
other values there an instruction does the same to the Machine State and returns the same result. -/
def Obligations.PhaseAndLatchAreInvisibleToInstructions : Prop :=
  ∀ (i : Instr) (s : State) (p : Phase) (f : FaultLatch),
    ∃ t u, exec i s = .next t ∧ exec i { s with phase := p, fault := f } = .next u ∧
      t.SameMachine u ∧ u.out = t.out ∧ u.draws = t.draws ∧ u.phase = p ∧
      (∀ changed, u.out = .ok changed → u.fault = f)

/-- Only RND reads the random byte (R79, decision D14), and only a step that executes RND consumes one. -/
def Obligations.OnlyRandomReadsTheRandomByte : Prop :=
  (∀ (i : Instr) (s : State) (k : Nat), drawsRandom i = false →
    exec i { s with draws := k } = mapNext (fun t => { t with draws := k }) (exec i s)) ∧
  (∀ s t : State, step s = .next t → t.draws ≠ s.draws →
    t.draws = s.draws + 1 ∧
    ∃ x nn, decode (wordOfBytes (s.mem.byteAt s.pc.toNat) (s.mem.byteAt (s.pc.toNat + 1))) = .ok (.rnd x nn))

/-- The model's result port is read by no step (log entry 3: the core stores no such value, R23), so it adds no state to
the machine. -/
def Obligations.ResultPortIsNeverRead : Prop :=
  ∀ (s : State) (o : StepResult), step { s with out := o } = step s

/-! ### Memory and the host's operations -/

/-- MemRead (R32, decision D28): inside memory one byte, or two with the high byte first; past 0xFFF nothing, and a
two-byte read that would cross the end reads nothing. -/
def Obligations.MemReadIsBoundedAndBigEndian : Prop :=
  ∀ (m : Memory) (a : Nat),
    (a ≤ 0xFFF → m.read1 a = some (m.byteAt a)) ∧ (0xFFF < a → m.read1 a = none) ∧
    (a + 1 ≤ 0xFFF → ∃ w, m.read2 a = some w ∧ w.toNat = (m.byteAt a).toNat * 256 + (m.byteAt (a + 1)).toNat) ∧
    (0xFFF < a + 1 → m.read2 a = none)

/-- MemWrite (R33): for addresses up to 0xFFF it stores the byte there and leaves every other cell alone; no instruction
writes memory, and the one operation that does is LOAD_PROGRAM. The premise is the canonical form of the list, an
invariant of the model. -/
def Obligations.MemWriteStoresOneByte : Prop :=
  (∀ (m : Memory) (a b : Nat) (v : Byte), m.wf = true → a ≤ 0xFFF →
    (m.write1 a v).byteAt b = if b = a then v else m.byteAt b) ∧
  (∀ (i : Instr) (s t : State), exec i s = .next t → t.mem = s.mem) ∧
  (∀ (op : HostOp) (s t : State), hostStep op s = .next t → t.mem ≠ s.mem → op = .reset ∨ ∃ rom, op = .loadProgram rom)

/-- LOAD_PROGRAM (R162): within its preconditions it copies the bytes to 0x200 and on, sets `phase` to RUN, and does
nothing else: right after RESET all other memory stays 0x00. -/
def Obligations.LoadProgramCopiesTheBytes : Prop :=
  (∀ (s : State) (rom : List Byte), s.phase = .created → s.mem.wf = true → rom.length ≤ 3584 →
    ∃ t, loadProgram rom s = .next t ∧
      (∀ k, k < rom.length → t.mem.byteAt (0x200 + k) = rom.getD k 0) ∧
      (∀ a, (a < 0x200 ∨ 0x200 + rom.length ≤ a) → t.mem.byteAt a = s.mem.byteAt a) ∧
      t = { s with mem := t.mem, phase := .run }) ∧
  (∀ (p : Config.Params) (k a : Nat), (State.resetWith p k).phase = .created ∧ (State.resetWith p k).mem.byteAt a = 0x00)

/-- LOAD_PROGRAM outside its preconditions has no transition (R163, decision D15): refused after the first STEP or load,
and for more than 3584 bytes. -/
def Obligations.LoadProgramIsRefusedOutsideItsPreconditions : Prop :=
  ∀ (s : State) (rom : List Byte), s.phase = .run ∨ rom.length > 3584 →
    ∃ r, loadProgram rom s = .refused r

/-- RESET (R160, R26; the values of `I`, `FAULT` and `phase` are the spec's decisions D3, D8, D15): from any state, a
faulted one too, every piece of state gets its reset value and the old program is gone; the instance's ceiling stays
(log entry 4). -/
def Obligations.ResetRestoresEveryPieceOfState : Prop :=
  ∀ s : State, ∃ t, hostStep .reset s = .next t ∧
    (∀ a, t.mem.byteAt a = 0x00) ∧ (∀ x, t.reg x = 0x00) ∧ t.pc = 0x0200 ∧ t.i = 0x0000 ∧ t.stack = [] ∧
    (∀ r c, t.display.cell r c = false) ∧ t.fault = { cause := 0, fpc := 0x0000, fop := 0x0000 } ∧ t.phase = .created ∧
    t.params = s.params

/-- The first STEP on a machine with no program (R70, D16; vector F1): the word 0x0000 at 0x200 is no instruction, so the
fault UnsupportedOpcode is latched, and `pc` has not moved. -/
def Obligations.FirstStepWithoutAProgramFaults : Prop :=
  step State.reset = .next { State.reset with
    phase := .run
    fault := { cause := 1, fpc := 0x0200, fop := 0x0000 }
    out := .fault 1 0x0200 0x0000 }

/-! ### The invariant -/

/-- The invariant holds right after RESET, for every ceiling of at least 1 (R5, R26). -/
def Obligations.InvariantHoldsAtReset : Prop :=
  State.reset.Inv ∧ ∀ (p : Config.Params) (k : Nat), 1 ≤ p.stackCeiling → (State.resetWith p k).Inv

/-- Every step keeps the invariant, from every state that has it: memory canonical, `pc` at most 0x1002 and call-stack
entries at most 0x1000 (R14), `I` at most 0xFFF (R16), depth at most the ceiling (R17), no reserved cause code (R21), the
latch and the returned result in agreement (R136, R137), CREATED only right after RESET (R22). -/
def Obligations.EveryStepKeepsTheInvariant : Prop :=
  ∀ s t : State, s.Inv → step s = .next t → t.Inv

/-- Every operation of the host keeps the invariant (R161, R164): RESET, LOAD_PROGRAM and STEP, in any order. -/
def Obligations.EveryHostOperationKeepsTheInvariant : Prop :=
  ∀ (op : HostOp) (s t : State), s.Inv → hostStep op s = .next t → t.Inv
end

