-- ==== Sys2Proof/Laws/State.lean ====
section
/-! SUPPORT. One lemma per field and update of State, so that no later proof unfolds a record update. -/

namespace Sys2Proof.Machine

variable (s : State)

/-! `State.setPc` -/

@[simp] theorem State.setPc_mem (w : Word) : (s.setPc w).mem = s.mem := rfl
@[simp] theorem State.setPc_v (w : Word) : (s.setPc w).v = s.v := rfl
@[simp] theorem State.setPc_pc (w : Word) : (s.setPc w).pc = w := rfl
@[simp] theorem State.setPc_i (w : Word) : (s.setPc w).i = s.i := rfl
@[simp] theorem State.setPc_stack (w : Word) : (s.setPc w).stack = s.stack := rfl
@[simp] theorem State.setPc_display (w : Word) : (s.setPc w).display = s.display := rfl
@[simp] theorem State.setPc_fault (w : Word) : (s.setPc w).fault = s.fault := rfl
@[simp] theorem State.setPc_phase (w : Word) : (s.setPc w).phase = s.phase := rfl
@[simp] theorem State.setPc_params (w : Word) : (s.setPc w).params = s.params := rfl
@[simp] theorem State.setPc_draws (w : Word) : (s.setPc w).draws = s.draws := rfl
@[simp] theorem State.setPc_out (w : Word) : (s.setPc w).out = s.out := rfl

/-! `State.advance` -/

@[simp] theorem State.advance_mem : s.advance.mem = s.mem := rfl
@[simp] theorem State.advance_v : s.advance.v = s.v := rfl
@[simp] theorem State.advance_pc : s.advance.pc = s.pc + 2 := rfl
@[simp] theorem State.advance_i : s.advance.i = s.i := rfl
@[simp] theorem State.advance_stack : s.advance.stack = s.stack := rfl
@[simp] theorem State.advance_display : s.advance.display = s.display := rfl
@[simp] theorem State.advance_fault : s.advance.fault = s.fault := rfl
@[simp] theorem State.advance_phase : s.advance.phase = s.phase := rfl
@[simp] theorem State.advance_params : s.advance.params = s.params := rfl
@[simp] theorem State.advance_draws : s.advance.draws = s.draws := rfl
@[simp] theorem State.advance_out : s.advance.out = s.out := rfl

/-! `State.push` -/

@[simp] theorem State.push_mem (w : Word) : (s.push w).mem = s.mem := rfl
@[simp] theorem State.push_v (w : Word) : (s.push w).v = s.v := rfl
@[simp] theorem State.push_pc (w : Word) : (s.push w).pc = s.pc := rfl
@[simp] theorem State.push_i (w : Word) : (s.push w).i = s.i := rfl
@[simp] theorem State.push_stack (w : Word) : (s.push w).stack = s.stack ++ [w] := rfl
@[simp] theorem State.push_display (w : Word) : (s.push w).display = s.display := rfl
@[simp] theorem State.push_fault (w : Word) : (s.push w).fault = s.fault := rfl
@[simp] theorem State.push_phase (w : Word) : (s.push w).phase = s.phase := rfl
@[simp] theorem State.push_params (w : Word) : (s.push w).params = s.params := rfl
@[simp] theorem State.push_draws (w : Word) : (s.push w).draws = s.draws := rfl
@[simp] theorem State.push_out (w : Word) : (s.push w).out = s.out := rfl

/-! `State.dropTop` -/

@[simp] theorem State.dropTop_mem : s.dropTop.mem = s.mem := rfl
@[simp] theorem State.dropTop_v : s.dropTop.v = s.v := rfl
@[simp] theorem State.dropTop_pc : s.dropTop.pc = s.pc := rfl
@[simp] theorem State.dropTop_i : s.dropTop.i = s.i := rfl
@[simp] theorem State.dropTop_stack : s.dropTop.stack = s.stack.dropLast := rfl
@[simp] theorem State.dropTop_display : s.dropTop.display = s.display := rfl
@[simp] theorem State.dropTop_fault : s.dropTop.fault = s.fault := rfl
@[simp] theorem State.dropTop_phase : s.dropTop.phase = s.phase := rfl
@[simp] theorem State.dropTop_params : s.dropTop.params = s.params := rfl
@[simp] theorem State.dropTop_draws : s.dropTop.draws = s.draws := rfl
@[simp] theorem State.dropTop_out : s.dropTop.out = s.out := rfl

/-! `State.setReg` -/

@[simp] theorem State.setReg_mem (x : Reg) (b : Byte) : (s.setReg x b).mem = s.mem := rfl
@[simp] theorem State.setReg_v (x : Reg) (b : Byte) : (s.setReg x b).v = s.v.set x b := rfl
@[simp] theorem State.setReg_pc (x : Reg) (b : Byte) : (s.setReg x b).pc = s.pc := rfl
@[simp] theorem State.setReg_i (x : Reg) (b : Byte) : (s.setReg x b).i = s.i := rfl
@[simp] theorem State.setReg_stack (x : Reg) (b : Byte) : (s.setReg x b).stack = s.stack := rfl
@[simp] theorem State.setReg_display (x : Reg) (b : Byte) : (s.setReg x b).display = s.display := rfl
@[simp] theorem State.setReg_fault (x : Reg) (b : Byte) : (s.setReg x b).fault = s.fault := rfl
@[simp] theorem State.setReg_phase (x : Reg) (b : Byte) : (s.setReg x b).phase = s.phase := rfl
@[simp] theorem State.setReg_params (x : Reg) (b : Byte) : (s.setReg x b).params = s.params := rfl
@[simp] theorem State.setReg_draws (x : Reg) (b : Byte) : (s.setReg x b).draws = s.draws := rfl
@[simp] theorem State.setReg_out (x : Reg) (b : Byte) : (s.setReg x b).out = s.out := rfl

/-! `State.setFlag` -/

@[simp] theorem State.setFlag_mem (b : Bool) : (s.setFlag b).mem = s.mem := rfl
@[simp] theorem State.setFlag_v (b : Bool) : (s.setFlag b).v = s.v.set VF (if b then 0x01 else 0x00) := rfl
@[simp] theorem State.setFlag_pc (b : Bool) : (s.setFlag b).pc = s.pc := rfl
@[simp] theorem State.setFlag_i (b : Bool) : (s.setFlag b).i = s.i := rfl
@[simp] theorem State.setFlag_stack (b : Bool) : (s.setFlag b).stack = s.stack := rfl
@[simp] theorem State.setFlag_display (b : Bool) : (s.setFlag b).display = s.display := rfl
@[simp] theorem State.setFlag_fault (b : Bool) : (s.setFlag b).fault = s.fault := rfl
@[simp] theorem State.setFlag_phase (b : Bool) : (s.setFlag b).phase = s.phase := rfl
@[simp] theorem State.setFlag_params (b : Bool) : (s.setFlag b).params = s.params := rfl
@[simp] theorem State.setFlag_draws (b : Bool) : (s.setFlag b).draws = s.draws := rfl
@[simp] theorem State.setFlag_out (b : Bool) : (s.setFlag b).out = s.out := rfl

/-! `State.setIndex` -/

@[simp] theorem State.setIndex_mem (w : Word) : (s.setIndex w).mem = s.mem := rfl
@[simp] theorem State.setIndex_v (w : Word) : (s.setIndex w).v = s.v := rfl
@[simp] theorem State.setIndex_pc (w : Word) : (s.setIndex w).pc = s.pc := rfl
@[simp] theorem State.setIndex_i (w : Word) : (s.setIndex w).i = w := rfl
@[simp] theorem State.setIndex_stack (w : Word) : (s.setIndex w).stack = s.stack := rfl
@[simp] theorem State.setIndex_display (w : Word) : (s.setIndex w).display = s.display := rfl
@[simp] theorem State.setIndex_fault (w : Word) : (s.setIndex w).fault = s.fault := rfl
@[simp] theorem State.setIndex_phase (w : Word) : (s.setIndex w).phase = s.phase := rfl
@[simp] theorem State.setIndex_params (w : Word) : (s.setIndex w).params = s.params := rfl
@[simp] theorem State.setIndex_draws (w : Word) : (s.setIndex w).draws = s.draws := rfl
@[simp] theorem State.setIndex_out (w : Word) : (s.setIndex w).out = s.out := rfl

/-! `State.setDisplay` -/

@[simp] theorem State.setDisplay_mem (d : Display) : (s.setDisplay d).mem = s.mem := rfl
@[simp] theorem State.setDisplay_v (d : Display) : (s.setDisplay d).v = s.v := rfl
@[simp] theorem State.setDisplay_pc (d : Display) : (s.setDisplay d).pc = s.pc := rfl
@[simp] theorem State.setDisplay_i (d : Display) : (s.setDisplay d).i = s.i := rfl
@[simp] theorem State.setDisplay_stack (d : Display) : (s.setDisplay d).stack = s.stack := rfl
@[simp] theorem State.setDisplay_display (d : Display) : (s.setDisplay d).display = d := rfl
@[simp] theorem State.setDisplay_fault (d : Display) : (s.setDisplay d).fault = s.fault := rfl
@[simp] theorem State.setDisplay_phase (d : Display) : (s.setDisplay d).phase = s.phase := rfl
@[simp] theorem State.setDisplay_params (d : Display) : (s.setDisplay d).params = s.params := rfl
@[simp] theorem State.setDisplay_draws (d : Display) : (s.setDisplay d).draws = s.draws := rfl
@[simp] theorem State.setDisplay_out (d : Display) : (s.setDisplay d).out = s.out := rfl

/-! `State.setRandom` -/

@[simp] theorem State.setRandom_mem (x : Reg) (r nn : Byte) : (s.setRandom x r nn).mem = s.mem := rfl
@[simp] theorem State.setRandom_v (x : Reg) (r nn : Byte) : (s.setRandom x r nn).v = s.v.set x (r &&& nn) := rfl
@[simp] theorem State.setRandom_pc (x : Reg) (r nn : Byte) : (s.setRandom x r nn).pc = s.pc := rfl
@[simp] theorem State.setRandom_i (x : Reg) (r nn : Byte) : (s.setRandom x r nn).i = s.i := rfl
@[simp] theorem State.setRandom_stack (x : Reg) (r nn : Byte) : (s.setRandom x r nn).stack = s.stack := rfl
@[simp] theorem State.setRandom_display (x : Reg) (r nn : Byte) : (s.setRandom x r nn).display = s.display := rfl
@[simp] theorem State.setRandom_fault (x : Reg) (r nn : Byte) : (s.setRandom x r nn).fault = s.fault := rfl
@[simp] theorem State.setRandom_phase (x : Reg) (r nn : Byte) : (s.setRandom x r nn).phase = s.phase := rfl
@[simp] theorem State.setRandom_params (x : Reg) (r nn : Byte) : (s.setRandom x r nn).params = s.params := rfl
@[simp] theorem State.setRandom_draws (x : Reg) (r nn : Byte) : (s.setRandom x r nn).draws = s.draws := rfl
@[simp] theorem State.setRandom_out (x : Reg) (r nn : Byte) : (s.setRandom x r nn).out = s.out := rfl

/-! `State.drawn` -/

@[simp] theorem State.drawn_mem : s.drawn.mem = s.mem := rfl
@[simp] theorem State.drawn_v : s.drawn.v = s.v := rfl
@[simp] theorem State.drawn_pc : s.drawn.pc = s.pc := rfl
@[simp] theorem State.drawn_i : s.drawn.i = s.i := rfl
@[simp] theorem State.drawn_stack : s.drawn.stack = s.stack := rfl
@[simp] theorem State.drawn_display : s.drawn.display = s.display := rfl
@[simp] theorem State.drawn_fault : s.drawn.fault = s.fault := rfl
@[simp] theorem State.drawn_phase : s.drawn.phase = s.phase := rfl
@[simp] theorem State.drawn_params : s.drawn.params = s.params := rfl
@[simp] theorem State.drawn_draws : s.drawn.draws = s.draws + 1 := rfl
@[simp] theorem State.drawn_out : s.drawn.out = s.out := rfl

/-! `State.begin` -/

@[simp] theorem State.begin_mem : s.begin.mem = s.mem := rfl
@[simp] theorem State.begin_v : s.begin.v = s.v := rfl
@[simp] theorem State.begin_pc : s.begin.pc = s.pc := rfl
@[simp] theorem State.begin_i : s.begin.i = s.i := rfl
@[simp] theorem State.begin_stack : s.begin.stack = s.stack := rfl
@[simp] theorem State.begin_display : s.begin.display = s.display := rfl
@[simp] theorem State.begin_fault : s.begin.fault = s.fault := rfl
@[simp] theorem State.begin_phase : s.begin.phase = .run := rfl
@[simp] theorem State.begin_params : s.begin.params = s.params := rfl
@[simp] theorem State.begin_draws : s.begin.draws = s.draws := rfl
@[simp] theorem State.begin_out : s.begin.out = s.out := rfl

/-! `State.placeWord` -/

@[simp] theorem State.placeWord_mem (w : Word) : (s.placeWord w).mem = (s.mem.write1 s.pc.toNat (hiByte w)).write1 (s.pc.toNat + 1) (loByte w) := rfl
@[simp] theorem State.placeWord_v (w : Word) : (s.placeWord w).v = s.v := rfl
@[simp] theorem State.placeWord_pc (w : Word) : (s.placeWord w).pc = s.pc := rfl
@[simp] theorem State.placeWord_i (w : Word) : (s.placeWord w).i = s.i := rfl
@[simp] theorem State.placeWord_stack (w : Word) : (s.placeWord w).stack = s.stack := rfl
@[simp] theorem State.placeWord_display (w : Word) : (s.placeWord w).display = s.display := rfl
@[simp] theorem State.placeWord_fault (w : Word) : (s.placeWord w).fault = s.fault := rfl
@[simp] theorem State.placeWord_phase (w : Word) : (s.placeWord w).phase = s.phase := rfl
@[simp] theorem State.placeWord_params (w : Word) : (s.placeWord w).params = s.params := rfl
@[simp] theorem State.placeWord_draws (w : Word) : (s.placeWord w).draws = s.draws := rfl
@[simp] theorem State.placeWord_out (w : Word) : (s.placeWord w).out = s.out := rfl

/-! `State.skipIf` and `State.setCollision`: two updates with a condition. -/

@[simp] theorem State.skipIf_mem (b : Bool) : (s.skipIf b).mem = s.mem := by cases b <;> rfl
@[simp] theorem State.skipIf_v (b : Bool) : (s.skipIf b).v = s.v := by cases b <;> rfl
@[simp] theorem State.skipIf_pc (b : Bool) : (s.skipIf b).pc = if b then s.pc + 2 + 2 else s.pc + 2 := by cases b <;> rfl
@[simp] theorem State.skipIf_i (b : Bool) : (s.skipIf b).i = s.i := by cases b <;> rfl
@[simp] theorem State.skipIf_stack (b : Bool) : (s.skipIf b).stack = s.stack := by cases b <;> rfl
@[simp] theorem State.skipIf_display (b : Bool) : (s.skipIf b).display = s.display := by cases b <;> rfl
@[simp] theorem State.skipIf_fault (b : Bool) : (s.skipIf b).fault = s.fault := by cases b <;> rfl
@[simp] theorem State.skipIf_phase (b : Bool) : (s.skipIf b).phase = s.phase := by cases b <;> rfl
@[simp] theorem State.skipIf_params (b : Bool) : (s.skipIf b).params = s.params := by cases b <;> rfl
@[simp] theorem State.skipIf_draws (b : Bool) : (s.skipIf b).draws = s.draws := by cases b <;> rfl
@[simp] theorem State.skipIf_out (b : Bool) : (s.skipIf b).out = s.out := by cases b <;> rfl

@[simp] theorem State.setCollision_mem (b : Bool) : (s.setCollision b).mem = s.mem := by cases b <;> rfl
@[simp] theorem State.setCollision_v (b : Bool) : (s.setCollision b).v = if b then s.v.set VF 0x01 else s.v := by cases b <;> rfl
@[simp] theorem State.setCollision_pc (b : Bool) : (s.setCollision b).pc = s.pc := by cases b <;> rfl
@[simp] theorem State.setCollision_i (b : Bool) : (s.setCollision b).i = s.i := by cases b <;> rfl
@[simp] theorem State.setCollision_stack (b : Bool) : (s.setCollision b).stack = s.stack := by cases b <;> rfl
@[simp] theorem State.setCollision_display (b : Bool) : (s.setCollision b).display = s.display := by cases b <;> rfl
@[simp] theorem State.setCollision_fault (b : Bool) : (s.setCollision b).fault = s.fault := by cases b <;> rfl
@[simp] theorem State.setCollision_phase (b : Bool) : (s.setCollision b).phase = s.phase := by cases b <;> rfl
@[simp] theorem State.setCollision_params (b : Bool) : (s.setCollision b).params = s.params := by cases b <;> rfl
@[simp] theorem State.setCollision_draws (b : Bool) : (s.setCollision b).draws = s.draws := by cases b <;> rfl
@[simp] theorem State.setCollision_out (b : Bool) : (s.setCollision b).out = s.out := by cases b <;> rfl

/-! The accessors over the updates of registers. -/

theorem State.reg_eq (x : Reg) : s.reg x = s.v[x] := rfl

@[simp] theorem State.reg_setReg_same (x : Reg) (b : Byte) : (s.setReg x b).reg x = b := by
  simp [State.reg_eq]

theorem State.reg_setReg_ne {x y : Reg} (h : y ≠ x) (b : Byte) : (s.setReg x b).reg y = s.reg y := by
  have hv : x.val ≠ y.val := fun e => h (Fin.ext e.symm)
  simp [State.reg_eq, hv]

theorem State.reg_setReg (x y : Reg) (b : Byte) : (s.setReg x b).reg y = if y = x then b else s.reg y := by
  by_cases h : y = x
  · subst h; simp
  · simp [h, State.reg_setReg_ne s h]

/-! The state right after RESET, field by field (R26). -/

variable (p : Config.Params) (k : Nat)

@[simp] theorem State.resetWith_mem : (State.resetWith p k).mem = [] := rfl
@[simp] theorem State.resetWith_v : (State.resetWith p k).v = Vector.replicate 16 0 := rfl
@[simp] theorem State.resetWith_pc : (State.resetWith p k).pc = 0x0200 := rfl
@[simp] theorem State.resetWith_i : (State.resetWith p k).i = 0x0000 := rfl
@[simp] theorem State.resetWith_stack : (State.resetWith p k).stack = [] := rfl
@[simp] theorem State.resetWith_display : (State.resetWith p k).display = Display.blank := rfl
@[simp] theorem State.resetWith_fault : (State.resetWith p k).fault = FaultLatch.clear := rfl
@[simp] theorem State.resetWith_phase : (State.resetWith p k).phase = .created := rfl
@[simp] theorem State.resetWith_params : (State.resetWith p k).params = p := rfl
@[simp] theorem State.resetWith_draws : (State.resetWith p k).draws = k := rfl
@[simp] theorem State.resetWith_out : (State.resetWith p k).out = .none := rfl

end Sys2Proof.Machine
end

