-- ==== Sys2Proof/Laws/Memory.lean ====
section
/-! SUPPORT. The canonical form of the memory: every memory operation keeps it, and what the two reads answer. -/

namespace Sys2Proof.Machine

@[simp] theorem Memory.byteAt_nil (a : Nat) : Memory.byteAt [] a = 0 := rfl

theorem Memory.wfFrom_cons {lo a : Nat} {v : Byte} {m : Memory} :
    Memory.wfFrom lo ((a, v) :: m) = true ↔ lo ≤ a ∧ a < 4096 ∧ v ≠ 0 ∧ Memory.wfFrom (a + 1) m = true := by
  simp [Memory.wfFrom, and_assoc]

/-- A list that starts late enough starts late enough for any earlier bound. -/
theorem Memory.wfFrom_mono {lo lo' : Nat} (h : lo ≤ lo') : ∀ {m : Memory}, m.wfFrom lo' = true → m.wfFrom lo = true
  | [], _ => rfl
  | (a, v) :: m, hm => by
    obtain ⟨h1, h2, h3, h4⟩ := Memory.wfFrom_cons.mp hm
    exact Memory.wfFrom_cons.mpr ⟨h.trans h1, h2, h3, h4⟩

/-- A cell below the first listed address reads as 0x00. -/
theorem Memory.byteAt_of_lt {lo a : Nat} (ha : a < lo) : ∀ {m : Memory}, m.wfFrom lo = true → m.byteAt a = 0
  | [], _ => rfl
  | (b, v) :: m, hm => by
    obtain ⟨h1, _, _, h4⟩ := Memory.wfFrom_cons.mp hm
    have hb : ¬ b = a := by omega
    simp only [Memory.byteAt, hb, if_false]
    exact Memory.byteAt_of_lt (by omega) h4

theorem Memory.setByte_wfFrom {lo a : Nat} {v : Byte} (hlo : lo ≤ a) (ha : a < 4096) :
    ∀ {m : Memory}, m.wfFrom lo = true → (m.setByte a v).wfFrom lo = true
  | [], _ => by
    unfold Memory.setByte
    split
    · rfl
    next hv => exact Memory.wfFrom_cons.mpr ⟨hlo, ha, hv, rfl⟩
  | (b, w) :: m, hm => by
    obtain ⟨h1, h2, h3, h4⟩ := Memory.wfFrom_cons.mp hm
    unfold Memory.setByte
    split
    next hab =>
      split
      · exact hm
      next hv => exact Memory.wfFrom_cons.mpr ⟨hlo, ha, hv, Memory.wfFrom_cons.mpr ⟨hab, h2, h3, h4⟩⟩
    next hab =>
      split
      next he =>
        subst he
        split
        · exact Memory.wfFrom_mono (by omega) h4
        next hv => exact Memory.wfFrom_cons.mpr ⟨h1, h2, hv, h4⟩
      next hne =>
        exact Memory.wfFrom_cons.mpr ⟨h1, h2, h3, Memory.setByte_wfFrom (by omega) ha h4⟩

/-- Storing a byte keeps the canonical form. -/
theorem Memory.setByte_wf {m : Memory} {a : Nat} {v : Byte} (ha : a < 4096) (hm : m.wf = true) :
    (m.setByte a v).wf = true :=
  Memory.setByte_wfFrom (Nat.zero_le a) ha hm

/-- `MemWrite` keeps the canonical form, wherever it points. -/
theorem Memory.write1_wf {m : Memory} (a : Nat) (v : Byte) (hm : m.wf = true) : (m.write1 a v).wf = true := by
  unfold Memory.write1
  split
  · exact hm
  · exact Memory.setByte_wf (by omega) hm

/-- LOAD_PROGRAM's loop keeps the canonical form. -/
theorem Memory.writeBytes_wf : ∀ {m : Memory} (a : Nat) (bs : List Byte), m.wf = true → (m.writeBytes a bs).wf = true
  | _, _, [], hm => hm
  | _, a, b :: bs, hm => Memory.writeBytes_wf (a + 1) bs (Memory.write1_wf a b hm)

/-- Placing an instruction keeps the canonical form. -/
theorem State.placeWord_wf {s : State} (w : Word) (hm : s.mem.wf = true) : (s.placeWord w).mem.wf = true := by
  simpa using Memory.write1_wf _ _ (Memory.write1_wf _ _ hm)

/-- The memory right after RESET is in canonical form. -/
theorem State.resetWith_mem_wf (p : Config.Params) (k : Nat) : (State.resetWith p k).mem.wf = true := rfl

/-- All a fetch can do: with `pc + 1` past 0xFFF nothing is read, else the two bytes at `pc`, high byte first. -/
theorem State.fetch_cases (s : State) :
    (0xFFF ≤ s.pc.toNat ∧ s.fetch = none) ∨
    (s.pc.toNat ≤ 0xFFE ∧ s.fetch = some (wordOfBytes (s.mem.byteAt s.pc.toNat) (s.mem.byteAt (s.pc.toNat + 1)))) := by
  unfold State.fetch Memory.read2
  split
  · left; exact ⟨by omega, rfl⟩
  · right; exact ⟨by omega, rfl⟩

end Sys2Proof.Machine
end

