-- ==== Sys2Proof/Laws/Operands.lean ====
section
/-! SUPPORT. The values of the operand forms and of the flag computations, as numbers. -/

namespace Sys2Proof.Machine

/-- A 12-bit operand keeps its value (R53). -/
@[simp] theorem zextAddr_toNat (nnn : Addr) : (zextAddr nnn).toNat = nnn.toNat := by
  have := nnn.isLt
  simp only [zextAddr, BitVec.toNat_setWidth]
  omega

/-- The sum modulo 256 (R101). -/
theorem addByte_toNat (a b : Byte) : (addByte a b).toNat = (a.toNat + b.toNat) % 256 := BitVec.toNat_add a b

/-- The difference modulo 256 (R103). -/
theorem subByte_toNat (b a : Byte) : (subByte b a).toNat = (b.toNat + 256 - a.toNat) % 256 := by
  have := a.isLt
  simp only [subByte, BitVec.toNat_sub]
  omega

/-- The no-borrow flag is the comparison of the operands (R103). -/
theorem noBorrow_iff (b a : Byte) : noBorrow b a = true ↔ a.toNat ≤ b.toNat := by simp [noBorrow]

/-- The bound of DRW's sprite (R112), in the second form the rule gives it: `I + n > 0x1000`. -/
theorem spriteOutOfBounds_iff (base : Word) (n : Nat) :
    spriteOutOfBounds base n = true ↔ 0 < n ∧ 0x1000 < base.toNat + n := by
  simp only [spriteOutOfBounds, decide_eq_true_iff]
  omega

end Sys2Proof.Machine
end

