-- ==== Sys2Proof/Laws/Ops.lean ====
section
/-! SUPPORT. What each shared operation can do, said once: the two ends of a step, the call stack, one sprite pixel, and
the step as a whole. -/

namespace Sys2Proof.Machine

/-- Completion answers exactly one next state: the one given, with `Ok(changed)` as the result. -/
theorem State.complete_eq_next {s t : State} {b : Bool} : s.complete b = .next t ↔ t = { s with out := .ok b } := by
  simp [State.complete, eq_comm]

/-- A fault answers exactly one next state: the one given, with the latch and the result set. -/
theorem State.raise_eq_next {s t : State} {f : Fault} {fop : Word} :
    s.raise f fop = .next t ↔
      t = { s with fault := { cause := f.code, fpc := s.pc, fop := fop }, out := .fault f.code s.pc fop } := by
  simp [State.raise, eq_comm]

/-- The cause code of a fault is never 0. -/
theorem Fault.code_ne_zero (f : Fault) : f.code ≠ 0 := by cases f <;> decide

/-- The cause code of a fault is at most 4. -/
theorem Fault.code_le (f : Fault) : f.code.toNat ≤ 4 := by cases f <;> decide

/-- A fault leaves the Machine State alone (R136). -/
theorem State.raise_sameMachine {s t : State} {f : Fault} {fop : Word} (h : s.raise f fop = .next t) :
    s.SameMachine t := by
  rw [State.raise_eq_next.mp h]
  exact ⟨rfl, rfl, rfl, rfl, rfl, rfl⟩

/-- The top of a stack is the entry pushed last (R8). -/
@[simp] theorem State.top_push (s : State) (w : Word) : (s.push w).top = some w := by simp [State.top]

/-- Dropping the top undoes a push. -/
@[simp] theorem State.dropTop_push (s : State) (w : Word) : (s.push w).dropTop = s := by
  simp [State.dropTop, State.push]

/-- There is no top exactly when the stack is empty. -/
theorem State.top_eq_none {s : State} : s.top = none ↔ s.stack = [] := by simp [State.top]

/-- A stack with a top is its remainder and that top. -/
theorem State.stack_of_top {s : State} {w : Word} (h : s.top = some w) : s.stack = s.stack.dropLast ++ [w] := by
  have hne : s.stack ≠ [] := fun e => by simp [State.top, e] at h
  have hw : s.stack.getLast hne = w := by
    have := List.getLast?_eq_some_getLast hne
    simp only [State.top] at h
    rw [this] at h
    exact Option.some.inj h
  rw [← hw, List.dropLast_append_getLast hne]

/-- All one sprite pixel can do to a cell (R113, R114): toggle it, exactly when the pixel lands on it and its bit is 1. -/
theorem drawPixel_cell (g : Drawing) (row col : Nat) (bit : Bool) (r : Fin 32) (c : Fin 64) :
    (drawPixel g row col bit).display.cell r c =
      (g.display.cell r c ^^ (bit && decide (row = r.val ∧ col = c.val))) := by
  unfold drawPixel Display.cell
  split
  next h =>
    cases bit
    · simp
    · by_cases hr : row = r.val
      · subst hr
        by_cases hc : col = c.val
        · subst hc; simp
        · simp [hc]
      · simp [hr]
  next h =>
    have : ¬ (row = r.val ∧ col = c.val) := fun e => h ⟨e.1 ▸ r.isLt, e.2 ▸ c.isLt⟩
    simp [this]

/-- When one sprite pixel reports a change (R116): its bit is 1 and it is not dropped. -/
theorem drawPixel_changed (g : Drawing) (row col : Nat) (bit : Bool) :
    (drawPixel g row col bit).changed = (g.changed || (bit && decide (row < 32 ∧ col < 64))) := by
  unfold drawPixel
  split
  next h => cases bit <;> simp [h]
  next h => simp [h]

/-- When one sprite pixel collides (R114): its bit is 1 and it lands on a lit cell. -/
theorem drawPixel_collision (g : Drawing) (row col : Nat) (bit : Bool) :
    (drawPixel g row col bit).collision = true ↔
      g.collision = true ∨
        (bit = true ∧ ∃ (r : Fin 32) (c : Fin 64), row = r.val ∧ col = c.val ∧ g.display.cell r c = true) := by
  unfold drawPixel
  split
  next h =>
    cases bit
    · simp
    · simp only [if_true, Bool.or_eq_true, true_and]
      refine or_congr_right ⟨fun hl => ⟨⟨row, h.1⟩, ⟨col, h.2⟩, rfl, rfl, hl⟩, ?_⟩
      rintro ⟨r, c, rfl, rfl, hl⟩
      exact hl
  next h =>
    refine ⟨Or.inl, fun hg => hg.resolve_right ?_⟩
    rintro ⟨_, r, c, rfl, rfl, _⟩
    exact h ⟨r.isLt, c.isLt⟩

/-- The two ways an instruction can end (R76, R136): it completes in a state with the same memory, latch, `phase` and
parameters, or it raises a fault with its own word on the state it was given. -/
theorem exec_ends (i : Instr) (s : State) :
    (∃ (u : State) (changed : Bool), exec i s = u.complete changed ∧ u.mem = s.mem ∧ u.fault = s.fault ∧ u.phase = s.phase ∧
      u.params = s.params) ∨
    (∃ f, exec i s = s.raise f (encode i)) := by
  cases i with
  | cls => exact .inl ⟨_, _, rfl, rfl, rfl, rfl, rfl⟩
  | ret =>
    simp only [exec, execRet]
    split
    · exact .inr ⟨_, rfl⟩
    · exact .inl ⟨_, _, rfl, rfl, rfl, rfl, rfl⟩
  | jp nnn => exact .inl ⟨_, _, rfl, rfl, rfl, rfl, rfl⟩
  | call nnn =>
    simp only [exec, execCall]
    split
    · exact .inr ⟨_, rfl⟩
    · exact .inl ⟨_, _, rfl, rfl, rfl, rfl, rfl⟩
  | se x nn => exact .inl ⟨_, _, rfl, by simp, by simp, by simp, by simp⟩
  | sne x nn => exact .inl ⟨_, _, rfl, by simp, by simp, by simp, by simp⟩
  | ldImm x nn => exact .inl ⟨_, _, rfl, rfl, rfl, rfl, rfl⟩
  | addImm x nn => exact .inl ⟨_, _, rfl, rfl, rfl, rfl, rfl⟩
  | ldReg x y => exact .inl ⟨_, _, rfl, rfl, rfl, rfl, rfl⟩
  | subn x y => exact .inl ⟨_, _, rfl, rfl, rfl, rfl, rfl⟩
  | ldI nnn => exact .inl ⟨_, _, rfl, rfl, rfl, rfl, rfl⟩
  | rnd x nn => exact .inl ⟨_, _, rfl, rfl, rfl, rfl, rfl⟩
  | drw x y n =>
    simp only [exec, execDrw]
    split
    · exact .inr ⟨_, rfl⟩
    · exact .inl ⟨_, _, rfl, by simp, by simp, by simp, by simp⟩

/-- Everything a step can do (R78): repeat a latched fault, fault in the fetch, fault in the decode, or execute the one
instruction at `pc`. -/
theorem step_cases (s : State) :
    (s.fault.cause ≠ 0 ∧ step s = s.refault) ∨
    (s.fault.cause = 0 ∧ 0xFFF ≤ s.pc.toNat ∧ step s = s.begin.raise .outOfBoundsAccess 0x0000) ∨
    (s.fault.cause = 0 ∧ s.pc.toNat ≤ 0xFFE ∧ ∃ w, w = wordOfBytes (s.mem.byteAt s.pc.toNat) (s.mem.byteAt (s.pc.toNat + 1)) ∧
      ((∃ e, decode w = .error e ∧ step s = s.begin.raise .unsupportedOpcode w) ∨
       (∃ i, decode w = .ok i ∧ step s = exec i s.begin))) := by
  by_cases hc : s.fault.cause = 0
  · right
    have hf : s.faulted = false := by simp [State.faulted, hc]
    obtain ⟨hp, hw⟩ | ⟨hp, hw⟩ := s.fetch_cases
    · left
      exact ⟨hc, hp, by simp [step, cycle, hf, hw]⟩
    · right
      refine ⟨hc, hp, _, rfl, ?_⟩
      cases hd : decode (wordOfBytes (s.mem.byteAt s.pc.toNat) (s.mem.byteAt (s.pc.toNat + 1))) with
      | error e => left; exact ⟨e, rfl, by simp [step, cycle, hf, hw, hd]⟩
      | ok i => right; exact ⟨i, rfl, by simp [step, cycle, hf, hw, hd]⟩
  · left
    have hf : s.faulted = true := by simpa [State.faulted] using hc
    exact ⟨hc, by simp [step, cycle, hf]⟩

end Sys2Proof.Machine
end

