-- ==== Sys2Proof/Laws/PerInstr.lean ====
section
/-! SUPPORT. The family EncodesRow of statements about every instruction as syntax: its word carries the fixed bits of its
row of the opcode map (spec/30_encoding.md R54: `(w & mask) == match`). -/

namespace Sys2Proof

/-- The `mask` column of R54. -/
def rowMask : Instr → Word
  | .cls | .ret => 0xFFFF
  | .ldReg _ _ | .subn _ _ => 0xF00F
  | .jp _ | .call _ | .se _ _ | .sne _ _ | .ldImm _ _ | .addImm _ _ | .ldI _ | .rnd _ _ | .drw _ _ _ => 0xF000

/-- The `match` column of R54. -/
def rowMatch : Instr → Word
  | .cls => 0x00E0
  | .ret => 0x00EE
  | .jp _ => 0x1000
  | .call _ => 0x2000
  | .se _ _ => 0x3000
  | .sne _ _ => 0x4000
  | .ldImm _ _ => 0x6000
  | .addImm _ _ => 0x7000
  | .ldReg _ _ => 0x8000
  | .subn _ _ => 0x8007
  | .ldI _ => 0xA000
  | .rnd _ _ => 0xC000
  | .drw _ _ _ => 0xD000

end Sys2Proof

namespace Sys2Proof.Laws.EncodesRow

/-- The instruction's word lies in its row of the opcode map. -/
def Statement (i : Instr) : Prop := encode i &&& rowMask i = rowMatch i

/-- Format NNN keeps `op` in bits 15:12. -/
theorem formatNNN_op (op : BitVec 4) (nnn : Addr) : formatNNN op nnn &&& 0xF000#16 = op ++ 0#12 := by
  apply BitVec.eq_of_getLsbD_eq
  intro k hk
  simp only [formatNNN, BitVec.getLsbD_and, BitVec.getLsbD_append]
  interval_cases k <;> simp

/-- Format XNN keeps `op` in bits 15:12. -/
theorem formatXNN_op (op : BitVec 4) (x : Reg) (nn : Byte) : formatXNN op x nn &&& 0xF000#16 = op ++ 0#12 := by
  apply BitVec.eq_of_getLsbD_eq
  intro k hk
  simp only [formatXNN, BitVec.getLsbD_and, BitVec.getLsbD_append]
  interval_cases k <;> simp

/-- Format XYN keeps `op` in bits 15:12. -/
theorem formatXYN_op (op : BitVec 4) (x y : Reg) (n : BitVec 4) : formatXYN op x y n &&& 0xF000#16 = op ++ 0#12 := by
  apply BitVec.eq_of_getLsbD_eq
  intro k hk
  simp only [formatXYN, BitVec.getLsbD_and, BitVec.getLsbD_append]
  interval_cases k <;> simp

/-- Format XY keeps `op` in bits 15:12 and the sub-operation in bits 3:0. -/
theorem formatXYN_op_sub (op : BitVec 4) (x y : Reg) (n : BitVec 4) :
    formatXYN op x y n &&& 0xF00F#16 = op ++ 0#8 ++ n := by
  apply BitVec.eq_of_getLsbD_eq
  intro k hk
  simp only [formatXYN, BitVec.getLsbD_and, BitVec.getLsbD_append]
  interval_cases k <;> simp

theorem cls : Statement .cls := rfl
theorem ret : Statement .ret := rfl
theorem jp (nnn : Addr) : Statement (.jp nnn) := formatNNN_op 1 nnn
theorem call (nnn : Addr) : Statement (.call nnn) := formatNNN_op 2 nnn
theorem se (x : Reg) (nn : Byte) : Statement (.se x nn) := formatXNN_op 3 x nn
theorem sne (x : Reg) (nn : Byte) : Statement (.sne x nn) := formatXNN_op 4 x nn
theorem ldImm (x : Reg) (nn : Byte) : Statement (.ldImm x nn) := formatXNN_op 6 x nn
theorem addImm (x : Reg) (nn : Byte) : Statement (.addImm x nn) := formatXNN_op 7 x nn
theorem ldReg (x y : Reg) : Statement (.ldReg x y) := formatXYN_op_sub 8 x y 0
theorem subn (x y : Reg) : Statement (.subn x y) := formatXYN_op_sub 8 x y 7
theorem ldI (nnn : Addr) : Statement (.ldI nnn) := formatNNN_op 0xA nnn
theorem rnd (x : Reg) (nn : Byte) : Statement (.rnd x nn) := formatXNN_op 0xC x nn
theorem drw (x y : Reg) (n : Nat) : Statement (.drw x y n) := formatXYN_op 0xD x y (BitVec.ofNat 4 n)

end Sys2Proof.Laws.EncodesRow
end

