-- ==== Sys2Proof/Tests/Slice0.lean ====
section
/-! SUPPORT. Tests of the model: the expected values are those of spec/95_test_vectors.md (the vector's name stands at the
test) or written out by hand from the rule cited; and for every statement with hypotheses a witness that they can be met
together. -/

namespace Sys2Proof.Tests

open Sys2Proof.Machine

/-! ### Well-formed and ill-formed terms -/

theorem test_wf_accepts_fifteen_rows : (Instr.drw 0 1 15).wf = true := by decide
theorem test_wf_refuses_sixteen_rows : (Instr.drw 0 1 16).wf = false := by decide

/-! ### Decoding: one word per constructor, written out from spec/30_encoding.md R54 -/

theorem test_decode_cls : decode 0b0000000011100000#16 = .ok .cls := by decide
theorem test_decode_ret : decode 0b0000000011101110#16 = .ok .ret := by decide
theorem test_decode_jp : decode 0b0001_111100001010#16 = .ok (.jp 0xF0A) := by decide
theorem test_decode_call : decode 0b0010_001000000110#16 = .ok (.call 0x206) := by decide
theorem test_decode_se : decode 0b0011_1010_00001000#16 = .ok (.se 0xA 0x08) := by decide
theorem test_decode_sne : decode 0b0100_1111_00000001#16 = .ok (.sne 0xF 0x01) := by decide
theorem test_decode_ldImm : decode 0b0110_0011_10100101#16 = .ok (.ldImm 0x3 0xA5) := by decide
theorem test_decode_addImm : decode 0b0111_1111_00000001#16 = .ok (.addImm 0xF 0x01) := by decide
theorem test_decode_ldReg : decode 0b1000_0001_0010_0000#16 = .ok (.ldReg 0x1 0x2) := by decide
theorem test_decode_subn : decode 0b1000_0001_0010_0111#16 = .ok (.subn 0x1 0x2) := by decide
theorem test_decode_ldI : decode 0b1010_111111111111#16 = .ok (.ldI 0xFFF) := by decide
theorem test_decode_rnd : decode 0b1100_0001_00001111#16 = .ok (.rnd 0x1 0x0F) := by decide
theorem test_decode_drw : decode 0b1101_0000_0001_0010#16 = .ok (.drw 0x0 0x1 2) := by decide

/-- The unsupported words of 95_test_vectors.md 2.1. -/
theorem test_decode_unsupported :
    ([0x00E1, 0x00EF, 0x01E0, 0x0000, 0x0EE0, 0x5120, 0x8121, 0x8125, 0x8126, 0x8128, 0x812E, 0x9120, 0xB200, 0xE19E,
      0xF107, 0xFFFF] : List Word).all (fun w => decode w == .error (.unsupported w)) = true := by decide

theorem test_decode_truncated : decodeBytes [0x60] = .error .truncated := by decide
theorem test_decode_leaves_the_rest : decodeBytes [0x60, 0x05, 0x70] = .ok (.ldImm 0 0x05, [0x70]) := by decide

/-- The assembly column of R59, encoded. -/
theorem test_encode :
    encode (.jp 0x208) = 0x1208 ∧ encode (.se 0 0x08) = 0x3008 ∧ encode (.subn 8 3) = 0x8837 ∧
    encode (.drw 0 1 2) = 0xD012 ∧ encodeBytes (.ldImm 0 0x05) = [0x60, 0x05] := by decide

theorem test_table_word : decodeTableWord 16 0xD01F = some (.drw 0 1 15) ∧ decodeTableWord 16 0x5000 = none := by decide

/-! ### One step on a small state -/

/-- The start state of 95_test_vectors.md: reset, `phase` = RUN, one word at 0x200. -/
def boot (w : Word) : State := (State.reset.withFetchWord 16 w.toNat).begin

/-- The state a step leaves, if it answers one. -/
def next (s : State) : Option State :=
  match step s with
  | .next t => some t
  | .fault _ => none
  | .refused _ => none

/-- A view of the state after a step. -/
def view {α : Type} (s : State) (f : State → α) : Option α := (next s).map f

/-- A step that is seen to answer a state of which `P` holds. -/
theorem steps_to {s : State} {P : State → Prop} (h : ∃ t, t ∈ next s ∧ P t) : ∃ t, step s = .next t ∧ P t := by
  obtain ⟨t, ht, hp⟩ := h
  refine ⟨t, ?_, hp⟩
  unfold next at ht
  split at ht
  next u hu => rw [hu]; exact congrArg _ (Option.some.inj ht)
  next => cases ht
  next => cases ht

/-- T1, and T4: the last byte is a legal target. -/
theorem test_jp : view (boot 0x1208) (fun t => (t.pc, t.out)) = some (0x0208, .ok false) ∧
    view (boot 0x1FFF) (fun t => (t.pc, t.out)) = some (0x0FFF, .ok false) := by decide
/-- T8: the sixteenth entry. -/
theorem test_call : view { boot 0x2206 with stack := List.replicate 15 0x0300 } (fun t => (t.stack, t.pc, t.out)) =
    some (List.replicate 15 0x0300 ++ [0x0202], 0x0206, .ok false) := by decide
/-- T7: the ceiling. -/
theorem test_call_exhausts : view { boot 0x2206 with stack := List.replicate 16 0x0300 }
    (fun t => (t.stack.length, t.pc, t.fault, t.out)) =
    some (16, 0x0200, { cause := 4, fpc := 0x0200, fop := 0x2206 }, .fault 4 0x0200 0x2206) := by decide
/-- T11: last pushed, first popped. -/
theorem test_ret : view { boot 0x00EE with stack := [0x0300, 0x0456] } (fun t => (t.stack, t.pc, t.out)) =
    some ([0x0300], 0x0456, .ok false) := by decide
/-- T12. -/
theorem test_ret_underflows : view (boot 0x00EE) (fun t => (t.stack, t.pc, t.fault)) =
    some ([], 0x0200, { cause := 2, fpc := 0x0200, fop := 0x00EE }) := by decide
/-- T16, T15. -/
theorem test_se : view (boot 0x3000) (fun t => t.pc) = some 0x0204 ∧ view (boot 0x3008) (fun t => t.pc) = some 0x0202 := by
  decide
/-- T18, T17 (with the reset registers in place of 0x07 and 0x08). -/
theorem test_sne : view (boot 0x4008) (fun t => t.pc) = some 0x0204 ∧ view (boot 0x4000) (fun t => t.pc) = some 0x0202 := by
  decide
/-- A2. -/
theorem test_ldImm : view (boot 0x6FAB) (fun t => (t.reg VF, t.pc)) = some (0xAB, 0x0202) := by decide
/-- A4: the sum wraps and VF stays. -/
theorem test_addImm_wraps : view ((boot 0x7302).setReg 3 0xFF) (fun t => (t.reg 3, t.reg VF)) = some (0x01, 0x00) := by decide
/-- A6: VF as an ordinary destination. -/
theorem test_addImm_vf : view ((boot 0x7FFF).setReg VF 0x01) (fun t => t.reg VF) = some 0x00 := by decide
/-- A16. -/
theorem test_ldReg : view ((boot 0x8120).setReg 2 0x7A) (fun t => (t.reg 1, t.reg 2)) = some (0x7A, 0x7A) := by decide
/-- A8: a borrow. -/
theorem test_subn_borrows : view (((boot 0x8327).setReg 3 0x05).setReg 2 0x03) (fun t => (t.reg 3, t.reg VF)) =
    some (0xFE, 0x00) := by decide
/-- A11: the flag overwrites the difference; A12: the operand is the old VF. -/
theorem test_subn_vf : view (((boot 0x8F17).setReg VF 0x03).setReg 1 0x0A) (fun t => (t.reg VF, t.reg 1)) =
    some (0x01, 0x0A) ∧
    view (((boot 0x81F7).setReg 1 0x02).setReg VF 0x05) (fun t => (t.reg 1, t.reg VF)) = some (0x03, 0x01) := by decide
/-- A20. -/
theorem test_ldI : view { boot 0xAFFF with i := 0x0300 } (fun t => (t.i, t.pc)) = some (0x0FFF, 0x0202) := by decide
/-- A21, for the random byte 0xA7. -/
theorem test_rnd_masks : ((boot 0xC00F).setRandom 0 0xA7 0x0F).reg 0 = 0x07 := by decide
/-- RND draws one byte and advances, whatever the byte is (R105). -/
theorem test_rnd_draws : view (boot 0xC00F) (fun t => (t.draws, t.pc, t.out)) = some (1, 0x0202, .ok false) := by decide
/-- V-D21: CLS does not touch VF. -/
theorem test_cls : view { (boot 0x00E0).setReg VF 0x01 with display := Vector.replicate 32 (Vector.replicate 64 true) }
    (fun t => (t.display.cell 0 0, t.display.cell 31 63, t.reg VF, t.out)) = some (false, false, 0x01, .ok true) := by decide

/-- A state with sprite bytes at 0x300 and `I` there. -/
def sprite (w : Word) (bytes : List Byte) : State :=
  { boot w with mem := (boot w).mem.writeBytes 0x300 bytes, i := 0x300 }

/-- V-D11: the coordinate is the old VF, and the collision overwrites it. -/
theorem test_drw_collides :
    view { (sprite 0xDF11 [0x80]).setReg VF 0x05 with
      display := (drawPixel { display := Display.blank, collision := false, changed := false } 0 5 true).display }
      (fun t => (t.display.cell 0 5, t.reg VF, t.out)) = some (false, 0x01, .ok true) := by decide
/-- P3, step 4: start at (31, 62), columns 64, 65 and the second row dropped, VF not written. -/
theorem test_drw_clips :
    view (((sprite 0xD012 [0xF0, 0x90]).setReg 0 0x3E).setReg 1 0x1F)
      (fun t => ([t.display.cell 31 61, t.display.cell 31 62, t.display.cell 31 63, t.display.cell 0 62, t.display.cell 31 0],
        t.reg VF, t.out)) = some ([false, true, true, false, false], 0x00, .ok true) := by decide
/-- V-D14: the byte of a clipped row is still checked. -/
theorem test_drw_out_of_bounds : view { (boot 0xD012).setReg 1 0x1F with i := 0xFFF } (fun t => (t.pc, t.fault)) =
    some (0x0200, { cause := 3, fpc := 0x0200, fop := 0xD012 }) := by decide

/-- F4 and F5: the fetch bound. -/
theorem test_fetch_bound : view { State.reset with pc := 0x0FFF } (fun t => (t.pc, t.fault, t.phase)) =
    some (0x0FFF, { cause := 3, fpc := 0x0FFF, fop := 0x0000 }, .run) := by decide
/-- F6: an odd fetch address. -/
theorem test_fetch_odd : view { boot 0x0061 with pc := 0x0201, mem := Memory.writeBytes [] 0x201 [0x61, 0x2A] }
    (fun t => (t.reg 1, t.pc)) = some (0x2A, 0x0203) := by decide
/-- X1. -/
theorem test_unsupported : view (boot 0x8014) (fun t => (t.pc, t.out)) = some (0x0200, .fault 1 0x0200 0x8014) := by decide
/-- X4. -/
theorem test_load : (match loadProgram [0x12, 0x00] State.reset with
    | .next t => (t.mem.byteAt 0x200, t.mem.byteAt 0x201, t.phase, t.pc)
    | .fault _ => (0, 0, .created, 0)
    | .refused _ => (0, 0, .created, 0)) = (0x12, 0x00, .run, 0x0200) := by decide

/-! ### Witnesses: the hypotheses of each statement, met together -/

theorem witness_EncodeThenDecode : (Instr.drw 15 15 15).wf = true := by decide

theorem witness_DecodeThenEncode : decode 0xDFFF = .ok (.drw 15 15 15) := by decide

theorem witness_StepRunsTheDecodedInstruction :
    (boot 0x6005).Running ∧ (boot 0x6005).pc.toNat ≤ 0xFFE ∧
    decode (wordOfBytes ((boot 0x6005).mem.byteAt (boot 0x6005).pc.toNat)
      ((boot 0x6005).mem.byteAt ((boot 0x6005).pc.toNat + 1))) = .ok (.ldImm 0 0x05) := ⟨rfl, by decide, by decide⟩

/-- At the last address an instruction can have. -/
theorem witness_PlacedTableWordIsRunNext :
    ({ State.reset with pc := 0xFFE } : State).Running ∧ ({ State.reset with pc := 0xFFE } : State).mem.wf = true ∧
    ({ State.reset with pc := 0xFFE } : State).pc.toNat ≤ 0xFFE ∧ decodeTableWord 16 0x2FFE = some (.call 0xFFE) :=
  ⟨rfl, by decide, by decide, by decide⟩

/-- At both ends of the range. -/
theorem witness_FetchPastEndOfMemoryFaults :
    ({ State.reset with pc := 0x0FFF } : State).Running ∧ 0xFFF ≤ ({ State.reset with pc := 0x0FFF } : State).pc.toNat ∧
    ({ State.reset with pc := 0xFFFF } : State).Running ∧ 0xFFF ≤ ({ State.reset with pc := 0xFFFF } : State).pc.toNat :=
  ⟨rfl, by decide, rfl, by decide⟩

theorem witness_UnsupportedWordFaults :
    (boot 0x8014).Running ∧ (boot 0x8014).pc.toNat ≤ 0xFFE ∧
    0x8014 = wordOfBytes ((boot 0x8014).mem.byteAt (boot 0x8014).pc.toNat)
      ((boot 0x8014).mem.byteAt ((boot 0x8014).pc.toNat + 1)) ∧ ∀ i, decode 0x8014 ≠ .ok i := by
  refine ⟨rfl, by decide, by decide, fun i h => ?_⟩
  have hd : decode 0x8014 = .error (.unsupported 0x8014) := by decide
  rw [hd] at h
  cases h

/-- A state with a latched fault. -/
def faulted : State := { State.reset with phase := .run, fault := { cause := 4, fpc := 0x0200, fop := 0x2200 } }

theorem witness_LatchedFaultIsReturnedAgain : ¬ faulted.Running := by decide

theorem witness_LatchIsStickyOverAnyRun : ¬ faulted.Running := by decide

/-- Both clauses: a fetch past the end, and a RET with an empty stack. -/
theorem witness_FaultsArePreciseAndRecorded :
    (({ State.reset with pc := 0x0FFF } : State).Running ∧ 0xFFF ≤ ({ State.reset with pc := 0x0FFF } : State).pc.toNat ∧
      ∃ t, step { State.reset with pc := 0x0FFF } = .next t ∧ ¬ t.Running) ∧
    ((boot 0x00EE).Running ∧ (boot 0x00EE).pc.toNat ≤ 0xFFE ∧ ∃ t, step (boot 0x00EE) = .next t ∧ ¬ t.Running) :=
  ⟨⟨rfl, by decide, steps_to (by decide)⟩, ⟨rfl, by decide, steps_to (by decide)⟩⟩

theorem witness_CompletedStepAdvancesThePc : ∃ t, step (boot 0x1208) = .next t ∧ t.out = .ok false := steps_to (by decide)

/-- A return to the highest address a stack entry has. -/
theorem witness_NoStepComputesAPcAbove1002 :
    (∀ e ∈ ({ boot 0x00EE with stack := [0x1000] } : State).stack, e.toNat ≤ 0x1000) ∧
    ∃ t, step { boot 0x00EE with stack := [0x1000] } = .next t ∧ t.pc = 0x1000 :=
  ⟨by simp, steps_to (by decide)⟩

theorem witness_DisplayChangedResult : ∃ t, exec .cls State.reset = .next t := ⟨_, rfl⟩

theorem witness_ReturnPopsOrUnderflows :
    ({ State.reset with stack := [0x0300, 0x1000] } : State).stack = [0x0300] ++ [0x1000] ∧ State.reset.stack = [] :=
  ⟨rfl, rfl⟩

/-- Below the ceiling by one, and at it. -/
theorem witness_CallPushesOrExhausts :
    ({ State.reset with stack := List.replicate 15 0x0300 } : State).stack.length ≠ State.reset.params.stackCeiling ∧
    ({ State.reset with stack := List.replicate 16 0x0300 } : State).stack.length = State.reset.params.stackCeiling := by
  decide

/-- The premise "z is not x": VF is one of the others. -/
theorem witness_AddImmediateWrapsWithoutFlag : VF ≠ (3 : Reg) := by decide

/-- The premises "x is not VF" and "z is neither". -/
theorem witness_ReverseSubtractWithNoBorrowFlag : (1 : Reg) ≠ VF ∧ (2 : Reg) ≠ 1 ∧ (2 : Reg) ≠ VF := by decide

/-- The premise "z is neither x nor y". -/
theorem witness_VariableRegistersAreIndependent : (15 : Reg) ≠ 0 ∧ (15 : Reg) ≠ 1 := by decide

theorem witness_PhaseAndLatchAreInvisibleToInstructions :
    ∃ t, exec .cls { State.reset with phase := .run, fault := { cause := 2, fpc := 0, fop := 0 } } = .next t ∧
      t.out = .ok true := ⟨_, rfl, rfl⟩

/-- A word the decoder rejects. -/
theorem witness_UnsupportedWordsAreThoseOfTheTable : decode 0x5000 = .error (.unsupported 0x5000) := by decide

theorem witness_SkipsMoveThePc : State.reset.reg 15 = 0x00 ∧ State.reset.reg 15 ≠ 0xFF := by decide

theorem witness_CallThenReturnRoundTrip :
    State.reset.stack.length ≠ State.reset.params.stackCeiling ∧
    ∃ t, exec (.call 0x206) State.reset = .next t ∧ (boot 0x00EE).stack ++ [0x0202] = t.stack :=
  ⟨by decide, _, rfl, by decide⟩

/-- At the highest address a self-jump can have, and at 0x200. -/
theorem witness_SelfJumpIsAFixedPoint :
    (boot 0x1200).Running ∧ (boot 0x1200).phase = .run ∧ (boot 0x1200).pc.toNat ≤ 0xFFE ∧
    (boot 0x1200).pc.toNat = (0x200 : Addr).toNat ∧
    decode (wordOfBytes ((boot 0x1200).mem.byteAt (boot 0x1200).pc.toNat)
      ((boot 0x1200).mem.byteAt ((boot 0x1200).pc.toNat + 1))) = .ok (.jp 0x200) :=
  ⟨rfl, rfl, by decide, by decide, by decide⟩

theorem witness_SetIndex : ∃ t, exec (.ldI 0xFFF) State.reset = .next t ∧ t.i ≠ State.reset.i := ⟨_, rfl, by decide⟩

/-- The arms with conditions: SUBN with a destination other than VF, and a DRW of each kind. -/
theorem witness_FlagIsWrittenAfterTheResult :
    (∃ t, exec (.subn 1 15) State.reset = .next t ∧ (1 : Reg) ≠ VF) ∧
    (∃ t, exec (.ldImm 1 0) State.reset = .next t ∧ (1 : Reg) ≠ VF) ∧
    (∃ t, exec (.drw 0 1 0) State.reset = .next t ∧
      ∀ r c, State.reset.display.cell r c = true → t.display.cell r c = true) ∧
    (∃ t, exec (.drw 0 1 1) { sprite 0xD011 [0x80] with
        display := (drawPixel { display := Display.blank, collision := false, changed := false } 0 0 true).display } = .next t ∧
      ∃ r c, (drawPixel { display := Display.blank, collision := false, changed := false } 0 0 true).display.cell r c = true ∧
        t.display.cell r c = false) :=
  ⟨⟨_, rfl, by decide⟩, ⟨_, rfl, by decide⟩, ⟨_, rfl, fun _ _ h => h⟩, ⟨_, rfl, 0, 0, by decide, by decide⟩⟩

/-- No rows with `I` anywhere, and a sprite that ends at 0xFFF. -/
theorem witness_DrawIsItsClosedForm :
    ¬ (0 > 0 ∧ ({ State.reset with i := 0xFFFF } : State).i.toNat + 0 - 1 > 0xFFF) ∧
    ¬ (15 > 0 ∧ ({ State.reset with i := 0xFF1 } : State).i.toNat + 15 - 1 > 0xFFF) := by decide

/-- One byte past the end, with the most rows and with the fewest. -/
theorem witness_DrawPastEndOfMemoryFaults :
    15 < 16 ∧ 15 > 0 ∧ ({ State.reset with i := 0xFF2 } : State).i.toNat + 15 - 1 > 0xFFF ∧
    1 < 16 ∧ 1 > 0 ∧ ({ State.reset with i := 0x1000 } : State).i.toNat + 1 - 1 > 0xFFF := by decide

theorem witness_DrawReportsAChangeIffACellDiffers :
    ¬ (3 > 0 ∧ ({ State.reset with i := 0xFFD } : State).i.toNat + 3 - 1 > 0xFFF) := by decide

theorem witness_DrawTwiceRestoresTheDisplay :
    ¬ (1 > 0 ∧ State.reset.i.toNat + 1 - 1 > 0xFFF) ∧
    ∃ t s' : State, exec (.drw 0 1 1) State.reset = .next t ∧ s'.mem = State.reset.mem ∧ s'.i = State.reset.i ∧
      s'.display = t.display ∧ (s'.reg 0).toNat % 64 = (State.reset.reg 0).toNat % 64 ∧
      (s'.reg 1).toNat % 32 = (State.reset.reg 1).toNat % 32 :=
  ⟨by decide, _, _, rfl, rfl, rfl, rfl, rfl, rfl⟩

theorem witness_OnlyClearAndDrawTouchTheDisplay :
    (∃ t, exec .cls { State.reset with display := Vector.replicate 32 (Vector.replicate 64 true) } = .next t ∧
      t.display ≠ Vector.replicate 32 (Vector.replicate 64 true)) ∧
    (∀ x y n, Instr.ret ≠ .drw x y n) ∧ Instr.ret ≠ .cls := by
  refine ⟨⟨_, rfl, fun h => ?_⟩, fun _ _ _ h => (by cases h), fun h => (by cases h)⟩
  have hc := congrArg (fun d : Display => d.cell 0 0) h
  simp [Display.cell, Display.blank] at hc

/-- One instruction for each premise: a completed one, one outside every writing set, and one that faults. -/
theorem witness_FrameOfEveryInstruction :
    (∃ t, exec (.ldImm 1 0x05) State.reset = .next t ∧ (2 : Reg) ∉ writtenRegs (.ldImm 1 0x05) ∧
      writesIndex (.ldImm 1 0x05) = false ∧ writesStack (.ldImm 1 0x05) = false ∧
      writesDisplay (.ldImm 1 0x05) = false ∧ drawsRandom (.ldImm 1 0x05) = false ∧ t.out = .ok false) ∧
    (∃ t, exec .ret State.reset = .next t ∧ t.fault ≠ State.reset.fault) :=
  ⟨⟨_, rfl, by decide, rfl, rfl, rfl, rfl, rfl⟩, ⟨_, rfl, by decide⟩⟩

theorem witness_NoStepWritesMemory : ∃ t, step (boot 0x00E0) = .next t ∧ t.out = .ok true := steps_to (by decide)

theorem witness_OnlyRandomReadsTheRandomByte :
    drawsRandom (.ldI 0) = false ∧ ∃ t, step (boot 0xC00F) = .next t ∧ t.draws ≠ (boot 0xC00F).draws :=
  ⟨rfl, steps_to (by decide)⟩

theorem witness_MemReadIsBoundedAndBigEndian :
    (0xFFF ≤ 0xFFF) ∧ (0xFFF < 0x1000) ∧ (0xFFE + 1 ≤ 0xFFF) ∧ (0xFFF < 0xFFF + 1) := by decide

theorem witness_MemWriteStoresOneByte :
    (boot 0x6005).mem.wf = true ∧ 0xFFF ≤ 0xFFF ∧ (∃ t, exec .cls State.reset = .next t) ∧
    ∃ t, hostStep (.loadProgram [0x12]) State.reset = .next t ∧ t.mem ≠ State.reset.mem :=
  ⟨by decide, by decide, ⟨_, rfl⟩, ⟨_, rfl, by decide⟩⟩

/-- The longest program (X5) and the empty one. -/
theorem witness_LoadProgramCopiesTheBytes :
    State.reset.phase = .created ∧ State.reset.mem.wf = true ∧ (List.replicate 3584 (0x12 : Byte)).length ≤ 3584 ∧
    ([] : List Byte).length ≤ 3584 :=
  ⟨rfl, rfl, Nat.le_of_eq List.length_replicate, Nat.zero_le _⟩

/-- X6 and X7. -/
theorem witness_LoadProgramIsRefusedOutsideItsPreconditions :
    (List.replicate 3585 (0x12 : Byte)).length > 3584 ∧ (boot 0x1200).phase = .run :=
  ⟨Nat.lt_of_lt_of_eq (by decide : 3584 < 3585) List.length_replicate.symm, rfl⟩

/-- A machine with a program that has run into a full call stack. -/
def deep : State := { boot 0x2206 with stack := List.replicate 16 0x1000, i := 0x0FFF }

theorem deep_inv : deep.Inv where
  mem_canonical := by decide
  pc_range := by decide
  index_range := by decide
  entry_range := fun e he => by
    rw [List.eq_of_mem_replicate he]
    decide
  depth_range := by decide
  ceiling_pos := by decide
  cause_legal := by decide
  latch_clear := fun _ => rfl
  latch_reported := fun h => absurd rfl h
  created_is_reset := fun h => by cases h

theorem witness_EveryStepKeepsTheInvariant : deep.Inv ∧ ∃ t, step deep = .next t ∧ ¬ t.Running :=
  ⟨deep_inv, steps_to (by decide)⟩

theorem witness_EveryHostOperationKeepsTheInvariant : deep.Inv ∧ ∃ t, hostStep .reset deep = .next t :=
  ⟨deep_inv, _, rfl⟩

theorem witness_InvariantHoldsAtReset : 1 ≤ ({ stackCeiling := 1 } : Config.Params).stackCeiling := by decide

end Sys2Proof.Tests
end

section
/-! SUPPORT. The normal form of `exec`: which fault an instruction raises in a state, the state it completes in when it
raises none, and the display-changed result it then reports. The frames, the bounds and the isolation statements below go
through these three functions and not through the thirteen meanings. -/

namespace Sys2Proof.Machine

/-- The fault an instruction raises in the state in which its step began, if any (R132, R133, R134). -/
def raisedFault (i : Instr) (s : State) : Option Fault :=
  match i with
  | .ret => if s.stack = [] then some .stackUnderflow else none
  | .call _ => if s.depth = s.params.stackCeiling then some .resourceExhaustion else none
  | .drw _ _ n => if spriteOutOfBounds s.i n then some .outOfBoundsAccess else none
  | .cls | .jp _ | .se _ _ | .sne _ _ | .ldImm _ _ | .addImm _ _ | .ldReg _ _ | .subn _ _ | .ldI _ | .rnd _ _ => none

/-- The state an instruction completes in, before the result is set; meant for a state in which it raises no fault. -/
def completed (i : Instr) (s : State) : State :=
  match i with
  | .cls => s.advance.setDisplay Display.blank
  | .ret => s.dropTop.setPc (s.top.getD 0)
  | .jp nnn => s.setPc (zextAddr nnn)
  | .call nnn => (s.push s.advance.pc).setPc (zextAddr nnn)
  | .se x nn => s.skipIf (s.reg x == nn)
  | .sne x nn => s.skipIf (s.reg x != nn)
  | .ldImm x nn => s.advance.setReg x nn
  | .addImm x nn => s.advance.setReg x (addByte (s.reg x) nn)
  | .ldReg x y => s.advance.setReg x (s.reg y)
  | .subn x y => (s.advance.setReg x (subByte (s.reg y) (s.reg x))).setFlag (noBorrow (s.reg y) (s.reg x))
  | .ldI nnn => s.advance.setIndex (zextAddr nnn)
  | .rnd x nn => s.advance.drawn.setRandom x s.rndInput nn
  | .drw x y n => (s.advance.setDisplay (s.drawing x y n).display).setCollision (s.drawing x y n).collision

/-- The `changed` an instruction reports when it completes (R76). -/
def reportedChange (i : Instr) (s : State) : Bool :=
  match i with
  | .cls => true
  | .drw x y n => (s.drawing x y n).changed
  | .ret | .jp _ | .call _ | .se _ _ | .sne _ _ | .ldImm _ _ | .addImm _ _ | .ldReg _ _ | .subn _ _ | .ldI _
  | .rnd _ _ => false

/-- A fault is raised with the instruction's own word, on the state in which the step began (R136). -/
theorem exec_of_raisedFault {i : Instr} {s : State} {f : Fault} (h : raisedFault i s = some f) :
    exec i s = s.raise f (encode i) := by
  cases i with
  | ret =>
    obtain ⟨hs, rfl⟩ : s.stack = [] ∧ Fault.stackUnderflow = f := by simpa [raisedFault] using h
    simp [exec, execRet, State.top_eq_none.mpr hs]
  | call nnn =>
    obtain ⟨hd, rfl⟩ : s.depth = s.params.stackCeiling ∧ Fault.resourceExhaustion = f := by
      simpa [raisedFault] using h
    simp [exec, execCall, hd]
  | drw x y n =>
    obtain ⟨hb, rfl⟩ : spriteOutOfBounds s.i n = true ∧ Fault.outOfBoundsAccess = f := by
      simpa [raisedFault] using h
    simp [exec, execDrw, hb]
  | _ => cases h

/-- Without a fault an instruction completes. -/
theorem exec_of_no_raisedFault {i : Instr} {s : State} (h : raisedFault i s = none) :
    exec i s = (completed i s).complete (reportedChange i s) := by
  cases i with
  | ret =>
    have hs : s.stack ≠ [] := by simpa [raisedFault] using h
    obtain ⟨w, hw⟩ := Option.ne_none_iff_exists'.mp (mt State.top_eq_none.mp hs)
    simp [exec, execRet, completed, reportedChange, hw]
  | call nnn =>
    have hd : s.depth ≠ s.params.stackCeiling := by simpa [raisedFault] using h
    simp [exec, execCall, completed, reportedChange, hd]
  | drw x y n =>
    have hb : spriteOutOfBounds s.i n = false := by simpa [raisedFault] using h
    simp [exec, execDrw, completed, reportedChange, hb]
  | _ => rfl

/-- The two next states an instruction can answer, in full. -/
theorem exec_next_cases {i : Instr} {s t : State} (h : exec i s = .next t) :
    (raisedFault i s = none ∧ t = { completed i s with out := .ok (reportedChange i s) }) ∨
    (∃ f, raisedFault i s = some f ∧
      t = { s with fault := { cause := f.code, fpc := s.pc, fop := encode i }, out := .fault f.code s.pc (encode i) }) := by
  cases hf : raisedFault i s with
  | none => exact .inl ⟨rfl, State.complete_eq_next.mp (exec_of_no_raisedFault hf ▸ h)⟩
  | some f => exact .inr ⟨f, rfl, State.raise_eq_next.mp (exec_of_raisedFault hf ▸ h)⟩

/-- Only RET, CALL and DRW can raise a fault (R130). -/
theorem raisedFault_eq_some {i : Instr} {s : State} {f : Fault} (h : raisedFault i s = some f) :
    i = .ret ∨ (∃ nnn, i = .call nnn) ∨ ∃ x y n, i = .drw x y n := by
  cases i with
  | ret => exact .inl rfl
  | call nnn => exact .inr (.inl ⟨nnn, rfl⟩)
  | drw x y n => exact .inr (.inr ⟨x, y, n, rfl⟩)
  | _ => cases h

/-! The four ways of a step, each as an equation with its premise (R78). -/

theorem step_of_latched {s : State} (h : s.fault.cause ≠ 0) : step s = s.refault := by
  have hf : s.faulted = true := by simpa [State.faulted] using h
  simp [step, cycle, hf]

theorem step_of_fetch_none {s : State} (h : s.fault.cause = 0) (hw : s.fetch = none) :
    step s = s.begin.raise .outOfBoundsAccess 0x0000 := by
  simp [step, cycle, State.faulted, h, hw]

theorem step_of_decode_error {s : State} {w : Word} {e : DecodeReject} (h : s.fault.cause = 0)
    (hw : s.fetch = some w) (hd : decode w = .error e) : step s = s.begin.raise .unsupportedOpcode w := by
  simp [step, cycle, State.faulted, h, hw, hd]

theorem step_of_decode_ok {s : State} {w : Word} {i : Instr} (h : s.fault.cause = 0)
    (hw : s.fetch = some w) (hd : decode w = .ok i) : step s = exec i s.begin := by
  simp [step, cycle, State.faulted, h, hw, hd]

end Sys2Proof.Machine
end

section
/-! SUPPORT. The frame of a completed instruction, field by field (the access table of R25), and reading a register over
the updates. -/

namespace Sys2Proof.Machine

/-- A register reads the same in two states with the same variable registers. -/
theorem State.reg_congr {s t : State} (h : t.v = s.v) (z : Reg) : t.reg z = s.reg z := by
  rw [State.reg_eq, h, State.reg_eq]

theorem State.reg_setFlag_ne {z : Reg} (s : State) (b : Bool) (h : z ≠ VF) : (s.setFlag b).reg z = s.reg z :=
  s.reg_setReg_ne h _

@[simp] theorem State.reg_setFlag_same (s : State) (b : Bool) :
    (s.setFlag b).reg VF = if b then 0x01 else 0x00 :=
  s.reg_setReg_same VF _

theorem State.reg_setCollision_ne {z : Reg} (s : State) (b : Bool) (h : z ≠ VF) :
    (s.setCollision b).reg z = s.reg z := by
  cases b
  · rfl
  · exact s.reg_setFlag_ne true h

theorem State.reg_setCollision_same (s : State) (b : Bool) :
    (s.setCollision b).reg VF = if b then 0x01 else s.reg VF := by
  cases b
  · rfl
  · exact s.reg_setFlag_same true

@[simp] theorem completed_mem (i : Instr) (s : State) : (completed i s).mem = s.mem := by
  cases i <;> simp [completed]

@[simp] theorem completed_fault (i : Instr) (s : State) : (completed i s).fault = s.fault := by
  cases i <;> simp [completed]

@[simp] theorem completed_phase (i : Instr) (s : State) : (completed i s).phase = s.phase := by
  cases i <;> simp [completed]

@[simp] theorem completed_params (i : Instr) (s : State) : (completed i s).params = s.params := by
  cases i <;> simp [completed]

theorem completed_i {i : Instr} (h : writesIndex i = false) (s : State) : (completed i s).i = s.i := by
  cases i with
  | ldI nnn => cases h
  | _ => simp [completed]

theorem completed_stack {i : Instr} (h : writesStack i = false) (s : State) : (completed i s).stack = s.stack := by
  cases i with
  | ret => cases h
  | call nnn => cases h
  | _ => simp [completed]

theorem completed_display {i : Instr} (h : writesDisplay i = false) (s : State) :
    (completed i s).display = s.display := by
  cases i with
  | cls => cases h
  | drw x y n => cases h
  | _ => simp [completed]

theorem completed_draws {i : Instr} (h : drawsRandom i = false) (s : State) : (completed i s).draws = s.draws := by
  cases i with
  | rnd x nn => cases h
  | _ => simp [completed]

theorem completed_reg {i : Instr} {z : Reg} (h : z ∉ writtenRegs i) (s : State) :
    (completed i s).reg z = s.reg z := by
  cases i with
  | ldImm x nn => exact s.advance.reg_setReg_ne (by simpa [writtenRegs] using h) _
  | addImm x nn => exact s.advance.reg_setReg_ne (by simpa [writtenRegs] using h) _
  | ldReg x y => exact s.advance.reg_setReg_ne (by simpa [writtenRegs] using h) _
  | rnd x nn => exact s.advance.drawn.reg_setReg_ne (by simpa [writtenRegs] using h) _
  | subn x y =>
    obtain ⟨hx, hf⟩ : z ≠ x ∧ z ≠ VF := by simpa [writtenRegs] using h
    exact (State.reg_setFlag_ne _ _ hf).trans (s.advance.reg_setReg_ne hx _)
  | drw x y n => exact State.reg_setCollision_ne _ _ (by simpa [writtenRegs] using h)
  | _ => exact State.reg_congr (by simp [completed]) z

end Sys2Proof.Machine
end

section
/-! The invariant of the core: its ranges for a completed instruction, and then the two ends of a step and the step. -/

namespace Sys2Proof.Machine

/-- From a fetch inside memory a completed instruction leaves `pc` at most 0x1002 (R14). -/
theorem completed_pc_le {i : Instr} {s : State} (hf : raisedFault i s = none) (hp : s.pc.toNat ≤ 0xFFE)
    (he : ∀ e ∈ s.stack, e.toNat ≤ 0x1000) : (completed i s).pc.toNat ≤ 0x1002 := by
  have htwo : (s.pc + 2).toNat = s.pc.toNat + 2 := by bv_omega
  have hfour : (s.pc + 2 + 2).toNat = s.pc.toNat + 4 := by bv_omega
  cases i with
  | ret =>
    have hs : s.stack ≠ [] := by simpa [raisedFault] using hf
    have ht : s.top = some (s.stack.getLast hs) := List.getLast?_eq_some_getLast hs
    have hle := he _ (List.getLast_mem hs)
    simp only [completed, ht, State.setPc_pc, Option.getD_some]
    omega
  | jp nnn =>
    have := nnn.isLt
    simp only [completed, State.setPc_pc, zextAddr_toNat]
    omega
  | call nnn =>
    have := nnn.isLt
    simp only [completed, State.setPc_pc, zextAddr_toNat]
    omega
  | se x nn =>
    simp only [completed, State.skipIf_pc]
    split <;> omega
  | sne x nn =>
    simp only [completed, State.skipIf_pc]
    split <;> omega
  | _ =>
    simp only [completed, State.setDisplay_pc, State.setReg_pc, State.setFlag_pc, State.setIndex_pc,
      State.setRandom_pc, State.drawn_pc, State.setCollision_pc, State.advance_pc]
    omega

/-- No instruction sets `I` past 0xFFF (R16). -/
theorem completed_i_le (i : Instr) {s : State} (h : s.i.toNat ≤ 0xFFF) : (completed i s).i.toNat ≤ 0xFFF := by
  cases hw : writesIndex i with
  | false => rwa [completed_i hw]
  | true =>
    cases i with
    | ldI nnn =>
      have := nnn.isLt
      simp only [completed, State.setIndex_i, zextAddr_toNat]
      omega
    | _ => cases hw

/-- Every call-stack entry a completed instruction leaves is at most 0x1000 (R14): CALL pushes `pc + 2`. -/
theorem completed_entry_le (i : Instr) {s : State} (hp : s.pc.toNat ≤ 0xFFE)
    (he : ∀ e ∈ s.stack, e.toNat ≤ 0x1000) : ∀ e ∈ (completed i s).stack, e.toNat ≤ 0x1000 := by
  cases hw : writesStack i with
  | false => rwa [completed_stack hw]
  | true =>
    cases i with
    | ret => exact fun e hm => he e (List.mem_of_mem_dropLast hm)
    | call nnn =>
      intro e hm
      obtain hm | rfl : e ∈ s.stack ∨ e = s.pc + 2 := by simpa [completed] using hm
      · exact he e hm
      · bv_omega
    | _ => cases hw

/-- A completed instruction keeps the depth within the ceiling (R17): CALL at the ceiling faults instead. -/
theorem completed_depth_le {i : Instr} {s : State} (hf : raisedFault i s = none)
    (hd : s.depth ≤ s.params.stackCeiling) : (completed i s).depth ≤ (completed i s).params.stackCeiling := by
  rw [completed_params]
  cases hw : writesStack i with
  | false => rwa [State.depth, completed_stack hw]
  | true =>
    simp only [State.depth] at hd ⊢
    cases i with
    | ret =>
      simp only [completed, State.setPc_stack, State.dropTop_stack, List.length_dropLast]
      omega
    | call nnn =>
      have hne : s.stack.length ≠ s.params.stackCeiling := fun he => by simp [raisedFault, State.depth, he] at hf
      simp only [completed, State.setPc_stack, State.push_stack, List.length_append, List.length_singleton]
      omega
    | _ => cases hw

/-- Setting `phase` to RUN at the start of a step keeps the invariant. -/
theorem State.Inv.begin {s : State} (h : s.Inv) : s.begin.Inv :=
  { h with created_is_reset := fun hp => by cases hp }

/-- A latched fault returned again keeps the invariant (R71). -/
theorem State.Inv.refault {s t : State} (h : s.Inv) (hc : s.fault.cause ≠ 0) (ht : s.refault = .next t) : t.Inv := by
  obtain rfl : { s with out := .fault s.fault.cause s.fault.fpc s.fault.fop } = t := by
    simpa [State.refault] using ht
  exact { h with
    latch_reported := fun _ => ⟨(h.latch_reported hc).1, rfl⟩
    created_is_reset := fun hp =>
      absurd (congrArg (fun u : State => u.fault.cause) (h.created_is_reset hp)) hc }

/-- Taking a fault keeps the invariant (R136). -/
theorem State.Inv.raise {s t : State} {f : Fault} {fop : Word} (h : s.Inv) (hrun : s.phase = .run)
    (ht : s.raise f fop = .next t) : t.Inv := by
  obtain rfl := State.raise_eq_next.mp ht
  exact { h with
    cause_legal := f.code_le
    latch_clear := fun hz => absurd hz f.code_ne_zero
    latch_reported := fun _ => ⟨rfl, rfl⟩
    created_is_reset := fun hp => by simp [hrun] at hp }

/-- An instruction keeps the invariant, executed with no fault latched and both its bytes inside memory. -/
theorem State.Inv.exec {i : Instr} {s t : State} (h : s.Inv) (hrun : s.phase = .run) (hc : s.fault.cause = 0)
    (hp : s.pc.toNat ≤ 0xFFE) (ht : exec i s = .next t) : t.Inv := by
  cases hf : raisedFault i s with
  | some f => exact h.raise hrun (exec_of_raisedFault hf ▸ ht)
  | none =>
    obtain rfl := State.complete_eq_next.mp (exec_of_no_raisedFault hf ▸ ht)
    exact {
      mem_canonical := by simpa using h.mem_canonical
      pc_range := completed_pc_le hf hp h.entry_range
      index_range := completed_i_le i h.index_range
      entry_range := completed_entry_le i hp h.entry_range
      depth_range := completed_depth_le hf h.depth_range
      ceiling_pos := by simpa using h.ceiling_pos
      cause_legal := by simpa using h.cause_legal
      latch_clear := by simpa using h.latch_clear
      latch_reported := by simp [hc]
      created_is_reset := by simp [hrun] }

/-- Settles O50: each way a step can go (R78) keeps the invariant. -/
theorem everyStepKeepsTheInvariant : Obligations.EveryStepKeepsTheInvariant := by
  unfold Obligations.EveryStepKeepsTheInvariant
  intro s t h ht
  obtain ⟨hc, hs⟩ | ⟨_, _, hs⟩ | ⟨hc, hp, w, _, ⟨e, _, hs⟩ | ⟨i, _, hs⟩⟩ := step_cases s
  · exact h.refault hc (hs ▸ ht)
  · exact h.begin.raise rfl (hs ▸ ht)
  · exact h.begin.raise rfl (hs ▸ ht)
  · exact h.begin.exec rfl hc hp (hs ▸ ht)

/-- Settles O16: only a completed instruction writes `pc`, and it was fetched from inside memory. -/
theorem noStepComputesAPcAbove1002 : Obligations.NoStepComputesAPcAbove1002 := by
  unfold Obligations.NoStepComputesAPcAbove1002
  intro s t he ht
  obtain ⟨hc, hs⟩ | ⟨_, _, hs⟩ | ⟨_, hp, w, _, ⟨e, _, hs⟩ | ⟨i, _, hs⟩⟩ := step_cases s <;> rw [hs] at ht
  · cases ht
    exact .inl rfl
  · cases ht
    exact .inl rfl
  · cases ht
    exact .inl rfl
  · obtain ⟨hf, rfl⟩ | ⟨f, _, rfl⟩ := exec_next_cases ht
    · exact .inr (completed_pc_le hf hp he)
    · exact .inl rfl

/-- Settles O49: every range holds of the reset values (R26), and no fault is latched. -/
theorem invariantHoldsAtReset : Obligations.InvariantHoldsAtReset := by
  unfold Obligations.InvariantHoldsAtReset
  have hreset : ∀ (p : Config.Params) (k : Nat), 1 ≤ p.stackCeiling → (State.resetWith p k).Inv := fun p k hp => {
    mem_canonical := rfl
    pc_range := by simp
    index_range := by simp
    entry_range := by simp
    depth_range := by simp [State.depth]
    ceiling_pos := hp
    cause_legal := Nat.zero_le 4
    latch_clear := fun _ => rfl
    latch_reported := fun hc => absurd rfl hc
    created_is_reset := fun _ => rfl }
  exact ⟨hreset _ _ (by decide), hreset⟩

end Sys2Proof.Machine
end

section
/-! Frames and isolation: what an instruction leaves alone, and what it does not read. -/

namespace Sys2Proof.Machine

section

variable (i : Instr) (s : State) (p : Phase) (l : FaultLatch) (o : StepResult) (d : Display)

/-! The fields no instruction reads: `phase`, the latch and the result. -/

theorem raisedFault_congr_ports : raisedFault i { s with phase := p, fault := l, out := o } = raisedFault i s := by
  cases i <;> rfl

theorem reportedChange_congr_ports :
    reportedChange i { s with phase := p, fault := l, out := o } = reportedChange i s := by
  cases i <;> rfl

/-- A skip commutes with an update of fields the advance does not touch. -/
theorem State.skipIf_comm {u : State → State} (h : ∀ s, (u s).advance = u s.advance) (s : State) (b : Bool) :
    (u s).skipIf b = u (s.skipIf b) := by
  cases b
  · exact h s
  · exact (congrArg State.advance (h s)).trans (h s.advance)

/-- Setting VF on a collision commutes with an update of fields that are no registers. -/
theorem State.setCollision_comm {u : State → State} (h : ∀ s, (u s).setFlag true = u (s.setFlag true)) (s : State)
    (b : Bool) : (u s).setCollision b = u (s.setCollision b) := by
  cases b
  · rfl
  · exact h s

/-- An instruction carries `phase`, the latch and the result along and computes the rest without them. -/
theorem completed_congr_ports :
    completed i { s with phase := p, fault := l, out := o } =
      { completed i s with phase := p, fault := l, out := o } := by
  cases i with
  | se x nn => exact State.skipIf_comm (u := fun s => { s with phase := p, fault := l, out := o }) (fun _ => rfl) s _
  | sne x nn => exact State.skipIf_comm (u := fun s => { s with phase := p, fault := l, out := o }) (fun _ => rfl) s _
  | drw x y n =>
    exact State.setCollision_comm (u := fun s => { s with phase := p, fault := l, out := o }) (fun _ => rfl)
      (s.advance.setDisplay (s.drawing x y n).display) _
  | _ => rfl

/-- An instruction answers the same whatever the result of the step before was. -/
theorem exec_congr_out : exec i { s with out := o } = exec i s := by
  have hf : raisedFault i { s with out := o } = raisedFault i s := raisedFault_congr_ports i s s.phase s.fault o
  cases h : raisedFault i s with
  | none =>
    have hc : completed i { s with out := o } =
        { completed i s with phase := s.phase, fault := s.fault, out := o } :=
      completed_congr_ports i s s.phase s.fault o
    have hr : reportedChange i { s with out := o } = reportedChange i s :=
      reportedChange_congr_ports i s s.phase s.fault o
    rw [exec_of_no_raisedFault h, exec_of_no_raisedFault (hf.trans h), hc, hr]
    simp [State.complete]
  | some f =>
    rw [exec_of_raisedFault h, exec_of_raisedFault (hf.trans h)]
    rfl

/-! The display, read and written by CLS and DRW only (R19). -/

theorem Display.blank_cell (r : Fin 32) (c : Fin 64) : Display.blank.cell r c = false := by
  simp [Display.cell, Display.blank]

theorem raisedFault_congr_display : raisedFault i { s with display := d } = raisedFault i s := by
  cases i <;> rfl

/-- An instruction that does not write the display computes the rest without it. -/
theorem completed_congr_display (h : writesDisplay i = false) :
    completed i { s with display := d } = { completed i s with display := d } := by
  cases i with
  | cls => cases h
  | drw x y n => cases h
  | se x nn => exact State.skipIf_comm (u := fun s => { s with display := d }) (fun _ => rfl) s _
  | sne x nn => exact State.skipIf_comm (u := fun s => { s with display := d }) (fun _ => rfl) s _
  | _ => rfl

/-- An instruction that does not write the display reports no change, whatever the display. -/
theorem reportedChange_of_not_writesDisplay (h : writesDisplay i = false) : reportedChange i s = false := by
  cases i with
  | cls => cases h
  | drw x y n => cases h
  | _ => rfl

/-- An instruction that does not write the display answers the same with another display in its place. -/
theorem exec_congr_display (h : writesDisplay i = false) :
    exec i { s with display := d } = mapNext (fun t => { t with display := d }) (exec i s) := by
  have hf : raisedFault i { s with display := d } = raisedFault i s := raisedFault_congr_display i s d
  cases hr : raisedFault i s with
  | none =>
    rw [exec_of_no_raisedFault hr, exec_of_no_raisedFault (hf.trans hr), completed_congr_display i s d h,
      reportedChange_of_not_writesDisplay i _ h, reportedChange_of_not_writesDisplay i _ h]
    rfl
  | some f =>
    rw [exec_of_raisedFault hr, exec_of_raisedFault (hf.trans hr)]
    rfl

end

theorem writesDisplay_eq_true {i : Instr} (h : writesDisplay i = true) : i = .cls ∨ ∃ x y n, i = .drw x y n := by
  cases i with
  | cls => exact .inl rfl
  | drw x y n => exact .inr ⟨x, y, n, rfl⟩
  | _ => cases h

/-- Settles O38: a completed instruction by its frame, field by field; a fault changes the latch and the result only. -/
theorem frameOfEveryInstruction : Obligations.FrameOfEveryInstruction := by
  unfold Obligations.FrameOfEveryInstruction
  intro i s t h
  obtain ⟨_, rfl⟩ | ⟨f, hf, rfl⟩ := exec_next_cases h
  · exact ⟨fun a => by rw [completed_mem], fun z hz => completed_reg hz s, fun hw => completed_i hw s,
      fun hw => completed_stack hw s, fun hw => completed_display hw s, fun hw => completed_draws hw s,
      completed_phase i s, completed_params i s, fun _ _ => completed_fault i s,
      fun hne => absurd (completed_fault i s) hne⟩
  · exact ⟨fun _ => rfl, fun _ _ => rfl, fun _ => rfl, fun _ => rfl, fun _ => rfl, fun _ => rfl, rfl, rfl, nofun,
      fun _ => raisedFault_eq_some hf⟩

/-- Settles O40: `phase` and the latch are carried along; a completed instruction keeps both, a fault sets the latch. -/
theorem phaseAndLatchAreInvisibleToInstructions : Obligations.PhaseAndLatchAreInvisibleToInstructions := by
  unfold Obligations.PhaseAndLatchAreInvisibleToInstructions
  intro i s p l
  have hf : raisedFault i { s with phase := p, fault := l } = raisedFault i s := raisedFault_congr_ports i s p l s.out
  cases h : raisedFault i s with
  | none =>
    have hc : completed i { s with phase := p, fault := l } =
        { completed i s with phase := p, fault := l, out := s.out } :=
      completed_congr_ports i s p l s.out
    have hr : reportedChange i { s with phase := p, fault := l } = reportedChange i s :=
      reportedChange_congr_ports i s p l s.out
    refine ⟨_, _, exec_of_no_raisedFault h, exec_of_no_raisedFault (hf.trans h), ?_⟩
    rw [hc, hr]
    exact ⟨⟨rfl, rfl, rfl, rfl, rfl, rfl⟩, rfl, rfl, rfl, fun _ _ => rfl⟩
  | some f =>
    exact ⟨_, _, exec_of_raisedFault h, exec_of_raisedFault (hf.trans h), ⟨rfl, rfl, rfl, rfl, rfl, rfl⟩, rfl, rfl, rfl,
      nofun⟩

/-- Settles O42: along each way a step can go (R78) the old result is neither read nor kept. -/
theorem resultPortIsNeverRead : Obligations.ResultPortIsNeverRead := by
  unfold Obligations.ResultPortIsNeverRead
  intro s o
  by_cases hc : s.fault.cause = 0
  · cases hw : s.fetch with
    | none =>
      rw [step_of_fetch_none hc hw, step_of_fetch_none (s := { s with out := o }) hc hw]
      rfl
    | some w =>
      cases hd : decode w with
      | error e =>
        rw [step_of_decode_error hc hw hd, step_of_decode_error (s := { s with out := o }) hc hw hd]
        rfl
      | ok i =>
        rw [step_of_decode_ok hc hw hd, step_of_decode_ok (s := { s with out := o }) hc hw hd]
        exact exec_congr_out i s.begin o
  · rw [step_of_latched hc, step_of_latched (s := { s with out := o }) hc]
    rfl

/-- Settles O37: the frame of the display for what changes it, and `exec_congr_display` for what reads it. -/
theorem onlyClearAndDrawTouchTheDisplay : Obligations.OnlyClearAndDrawTouchTheDisplay := by
  unfold Obligations.OnlyClearAndDrawTouchTheDisplay
  refine ⟨Display.blank_cell, ?changes, ?reads, fun _ _ => rfl⟩
  case changes =>
    intro i s t h hne
    obtain ⟨_, rfl⟩ | ⟨f, _, rfl⟩ := exec_next_cases h
    · exact writesDisplay_eq_true (by simpa using mt (fun hw => completed_display hw s) hne)
    · exact absurd rfl hne
  case reads =>
    intro i s d hdrw hcls
    refine exec_congr_display i s d (Bool.eq_false_iff.mpr fun hw => ?_)
    obtain hi | ⟨x, y, n, hi⟩ := writesDisplay_eq_true hw
    · exact hcls hi
    · exact hdrw x y n hi

end Sys2Proof.Machine
end

section
/-! The draw of DRW as one toggle per cell (R111 to R116), and the flag law. -/

namespace Sys2Proof.Machine

/-- `g'` is `g` after toggling exactly the cells in `hit`, each once: it collided on the lit ones, and it changed
something when there is one (R114, R116). -/
structure Toggles (hit : Fin 32 → Fin 64 → Bool) (g g' : Drawing) : Prop where
  cell : ∀ r c, g'.display.cell r c = (g.display.cell r c ^^ hit r c)
  collision : g'.collision = true ↔ g.collision = true ∨ ∃ r c, hit r c = true ∧ g.display.cell r c = true
  changed : g'.changed = true ↔ g.changed = true ∨ ∃ r c, hit r c = true

theorem Toggles.refl (g : Drawing) : Toggles (fun _ _ => false) g g where
  cell := by simp
  collision := by simp
  changed := by simp

/-- Two draws that share no cell are one draw of both sets of cells. -/
theorem Toggles.trans {hit hit' : Fin 32 → Fin 64 → Bool} {g g' g'' : Drawing} (h : Toggles hit g g')
    (h' : Toggles hit' g' g'') (hdisj : ∀ r c, hit r c = true → hit' r c = false) :
    Toggles (fun r c => hit r c || hit' r c) g g'' where
  cell r c := by
    rw [h'.cell, h.cell, Bool.xor_assoc]
    cases hr : hit r c
    · simp
    · simp [hdisj r c hr]
  collision := by
    have hlit : ∀ r c, (hit' r c = true ∧ g'.display.cell r c = true) ↔
        (hit' r c = true ∧ g.display.cell r c = true) := by
      intro r c
      rw [h.cell]
      cases hr : hit r c
      · simp
      · simp [hdisj r c hr]
    simp only [h'.collision, h.collision, hlit, Bool.or_eq_true, or_and_right, exists_or, or_assoc]
  changed := by simp only [h'.changed, h.changed, Bool.or_eq_true, exists_or, or_assoc]

/-- A loop of draws that pairwise share no cell is one draw of all their cells. -/
theorem Toggles.foldl_range {f : Drawing → Nat → Drawing} {hit : Nat → Fin 32 → Fin 64 → Bool}
    (hf : ∀ g k, Toggles (hit k) g (f g k))
    (hdisj : ∀ j k r c, hit j r c = true → hit k r c = true → j = k) (n : Nat) (g : Drawing) :
    Toggles (fun r c => (List.range n).any (fun k => hit k r c)) g ((List.range n).foldl f g) := by
  induction n with
  | zero => exact Toggles.refl g
  | succ n ih =>
    have hnew : ∀ r c, (List.range n).any (fun k => hit k r c) = true → hit n r c = false := by
      intro r c hany
      obtain ⟨k, hk, hhit⟩ := List.any_eq_true.mp hany
      refine Bool.eq_false_iff.mpr fun hn => ?_
      have := hdisj k n r c hhit hn
      have := List.mem_range.mp hk
      omega
    simpa [List.range_succ] using ih.trans (hf _ n) hnew

/-- The cell a sprite pixel toggles (R113, R114). -/
def pixelHit (row col : Nat) (bit : Bool) (r : Fin 32) (c : Fin 64) : Bool :=
  bit && decide (row = r.val ∧ col = c.val)

/-- The cells a sprite row toggles (R113). -/
def rowHit (byte : Byte) (row x0 : Nat) (r : Fin 32) (c : Fin 64) : Bool :=
  (List.range 8).any fun k => pixelHit row (x0 + k) (spritePixel byte k) r c

theorem pixelHit_eq_true {row col : Nat} {bit : Bool} {r : Fin 32} {c : Fin 64} :
    pixelHit row col bit r c = true ↔ bit = true ∧ row = r.val ∧ col = c.val := by
  simp [pixelHit]

theorem rowHit_eq_true {byte : Byte} {row x0 : Nat} {r : Fin 32} {c : Fin 64} :
    rowHit byte row x0 r c = true ↔
      row = r.val ∧ x0 ≤ c.val ∧ c.val ≤ x0 + 7 ∧ byte.getLsbD (7 - (c.val - x0)) = true := by
  simp only [rowHit, List.any_eq_true, List.mem_range, pixelHit_eq_true, spritePixel]
  constructor
  · rintro ⟨k, hk, hbit, hrow, hcol⟩
    have hk' : c.val - x0 = k := by omega
    exact ⟨hrow, by omega, by omega, by rwa [hk']⟩
  · rintro ⟨hrow, hlo, hhi, hbit⟩
    exact ⟨c.val - x0, by omega, hbit, hrow, by omega⟩

theorem drawPixel_toggles (g : Drawing) (row col : Nat) (bit : Bool) :
    Toggles (pixelHit row col bit) g (drawPixel g row col bit) where
  cell := drawPixel_cell g row col bit
  collision := by simp [drawPixel_collision, pixelHit_eq_true, and_assoc]
  changed := by
    have hin : (row < 32 ∧ col < 64) ↔ ∃ (r : Fin 32) (c : Fin 64), row = r.val ∧ col = c.val :=
      ⟨fun h => ⟨⟨row, h.1⟩, ⟨col, h.2⟩, rfl, rfl⟩, fun ⟨r, c, hr, hc⟩ => ⟨hr ▸ r.isLt, hc ▸ c.isLt⟩⟩
    simp [drawPixel_changed, pixelHit_eq_true, hin]

theorem drawRow_toggles (g : Drawing) (byte : Byte) (row x0 : Nat) :
    Toggles (rowHit byte row x0) g (drawRow g byte row x0) := by
  refine Toggles.foldl_range (fun g k => drawPixel_toggles g row (x0 + k) (spritePixel byte k)) ?_ 8 g
  intro j k r c hj hk
  obtain ⟨_, _, hcj⟩ := pixelHit_eq_true.mp hj
  obtain ⟨_, _, hck⟩ := pixelHit_eq_true.mp hk
  omega

/-- A row of the sprite lands on a cell exactly when the closed form's bit there is 1 (R111). -/
theorem any_rowHit_eq_spriteBitAt (mem : Memory) (base : Word) (x0 y0 n : Nat) (r : Fin 32) (c : Fin 64) :
    ((List.range n).any fun k => rowHit (mem.byteAt (spriteAddr base k)) (y0 + k) x0 r c) =
      spriteBitAt mem base x0 y0 n r.val c.val := by
  have hr := r.isLt
  have hc := c.isLt
  rw [Bool.eq_iff_iff]
  simp only [List.any_eq_true, List.mem_range, rowHit_eq_true, spriteAddr, spriteBitAt]
  constructor
  · rintro ⟨k, hk, hrow, hlo, hhi, hbit⟩
    have hk' : r.val - y0 = k := by omega
    rw [if_pos (by omega), hk']
    exact hbit
  · intro h
    split at h
    next hin => exact ⟨r.val - y0, by omega, by omega, by omega, by omega, h⟩
    next => cases h

/-- The drawing of DRW toggles exactly the cells of the closed form (R111). -/
theorem drawing_toggles (s : State) (x y : Reg) (n : Nat) :
    Toggles (s.spriteBit x y n) { display := s.display, collision := false, changed := false } (s.drawing x y n) := by
  have hrows : s.spriteBit x y n = fun r c => (List.range n).any fun k =>
      rowHit (s.mem.byteAt (spriteAddr s.i k)) (startRow (s.reg y) + k) (startColumn (s.reg x)) r c := by
    funext r c
    exact (any_rowHit_eq_spriteBitAt s.mem s.i _ _ n r c).symm
  rw [hrows]
  refine Toggles.foldl_range
    (fun g k => drawRow_toggles g (s.mem.byteAt (spriteAddr s.i k)) (startRow (s.reg y) + k) _) ?_ n _
  intro j k r c hj hk
  obtain ⟨hrj, _⟩ := rowHit_eq_true.mp hj
  obtain ⟨hrk, _⟩ := rowHit_eq_true.mp hk
  omega

/-- DRW collides exactly when some cell goes from lit to unlit (R115). -/
theorem drawing_collision_iff (s : State) (x y : Reg) (n : Nat) :
    (s.drawing x y n).collision = true ↔
      ∃ r c, s.display.cell r c = true ∧ (s.drawing x y n).display.cell r c = false := by
  have h := drawing_toggles s x y n
  simp only [h.collision, h.cell, Bool.false_eq_true, false_or]
  refine exists_congr fun r => exists_congr fun c => ?_
  cases s.display.cell r c <;> simp

/-- Settles O31: VF is SUBN's last write, DRW's when it collides, and another instruction's only as its destination. -/
theorem flagIsWrittenAfterTheResult : Obligations.FlagIsWrittenAfterTheResult := by
  unfold Obligations.FlagIsWrittenAfterTheResult
  intro i s t h
  have hframe : VF ∉ writtenRegs i → t.reg VF = s.reg VF := by
    obtain ⟨_, rfl⟩ | ⟨f, _, rfl⟩ := exec_next_cases h
    · exact fun hz => completed_reg hz s
    · exact fun _ => rfl
  cases i with
  | subn x y =>
    obtain rfl := State.complete_eq_next.mp h
    refine ⟨?flag, fun hx => ?result⟩
    case flag =>
      refine (State.reg_setFlag_same _ _).trans ?_
      simp [noBorrow]
    case result =>
      exact (State.reg_setFlag_ne _ _ hx).trans (s.advance.reg_setReg_same x _)
  | drw x y n =>
    obtain ⟨_, rfl⟩ | ⟨f, _, rfl⟩ := exec_next_cases h
    · have hcol := drawing_collision_iff s x y n
      have hflag : (completed (.drw x y n) s).reg VF = if (s.drawing x y n).collision then 0x01 else s.reg VF :=
        State.reg_setCollision_same _ _
      have hdisp : (completed (.drw x y n) s).display = (s.drawing x y n).display := by simp [completed]
      refine ⟨fun hoff => ?_, fun hstay => ?_⟩
      · rw [hdisp] at hoff
        exact hflag.trans (if_pos (hcol.mpr hoff))
      · rw [hdisp] at hstay
        refine hflag.trans (if_neg fun hc => ?_)
        obtain ⟨r, c, hlit, hunlit⟩ := hcol.mp hc
        simp [hstay r c hlit] at hunlit
    · exact ⟨fun ⟨r, c, hlit, hunlit⟩ => absurd (hlit.symm.trans hunlit) (by decide), fun _ => rfl⟩
  | ldImm x nn => exact fun hx => hframe (by simpa [writtenRegs] using hx.symm)
  | addImm x nn => exact fun hx => hframe (by simpa [writtenRegs] using hx.symm)
  | ldReg x y => exact fun hx => hframe (by simpa [writtenRegs] using hx.symm)
  | rnd x nn => exact fun hx => hframe (by simpa [writtenRegs] using hx.symm)
  | _ => exact hframe (by simp [writtenRegs])

end Sys2Proof.Machine
end

section
/-! The variable registers, and the state RESET gives (R11, R26). -/

namespace Sys2Proof.Machine

theorem State.resetWith_reg (p : Config.Params) (k : Nat) (x : Reg) : (State.resetWith p k).reg x = 0x00 := by
  simp [State.reg_eq]

/-- What every register reads after LD Vx, nn (R100). -/
theorem exec_ldImm_reg (s : State) (x : Reg) (nn : Byte) :
    ∃ t, exec (.ldImm x nn) s = .next t ∧ ∀ z, t.reg z = if z = x then nn else s.reg z :=
  ⟨_, rfl, fun z => s.advance.reg_setReg x z nn⟩

/-- What every register reads after LD Vx, Vy (R102). -/
theorem exec_ldReg_reg (s : State) (x y : Reg) :
    ∃ t, exec (.ldReg x y) s = .next t ∧ ∀ z, t.reg z = if z = x then s.reg y else s.reg z :=
  ⟨_, rfl, fun z => s.advance.reg_setReg x z (s.reg y)⟩

/-- Settles O30: the reads over a write of a register, and for the last part the reads over a load and a copy. -/
theorem variableRegistersAreIndependent : Obligations.VariableRegistersAreIndependent := by
  unfold Obligations.VariableRegistersAreIndependent
  refine ⟨fun s x z b => s.reg_setReg x z b, fun _ _ _ => rfl, State.resetWith_reg _ _, ?loadThenCopy⟩
  intro s x y b
  obtain ⟨t, ht, hload⟩ := exec_ldImm_reg s y b
  obtain ⟨u, hu, hcopy⟩ := exec_ldReg_reg t x y
  have hy : t.reg y = b := by simp [hload]
  refine ⟨t, u, ht, hu, by simp [hcopy, hy], by simp [hcopy, hy], fun z hx hne => ?_⟩
  simp [hcopy, hload, hx, hne]

/-- Settles O47: RESET answers the reset state for the parameters the core has (R160). -/
theorem resetRestoresEveryPieceOfState : Obligations.ResetRestoresEveryPieceOfState := by
  unfold Obligations.ResetRestoresEveryPieceOfState
  intro s
  exact ⟨_, rfl, Memory.byteAt_nil, State.resetWith_reg _ _, rfl, rfl, rfl, Display.blank_cell, rfl, rfl, rfl⟩

/-- Settles O48: the fetch of the empty memory at 0x200 answers 0x0000, which is no instruction (R131). -/
theorem firstStepWithoutAProgramFaults : Obligations.FirstStepWithoutAProgramFaults := by
  unfold Obligations.FirstStepWithoutAProgramFaults
  have hfetch : State.reset.fetch = some 0x0000 := by decide
  have hdecode : decode 0x0000 = .error (.unsupported 0x0000) := by decide
  exact step_of_decode_error rfl hfetch hdecode

end Sys2Proof.Machine
end

section
/-! SUPPORT. What a read returns after a write (R32, R33), the two bytes of a word put together again (R34), and the word
a fetch answers. -/

namespace Sys2Proof

/-- The high byte counts 256 times (R34). -/
theorem wordOfBytes_toNat (hi lo : Byte) : (wordOfBytes hi lo).toNat = hi.toNat * 256 + lo.toNat := by
  have := lo.isLt
  rw [wordOfBytes, BitVec.toNat_append, ← Nat.shiftLeft_add_eq_or_of_lt this, Nat.shiftLeft_eq]

/-- Splitting a word into its bytes and putting them together gives the word back (R50). -/
@[simp] theorem wordOfBytes_hiByte_loByte (w : Word) : wordOfBytes (hiByte w) (loByte w) = w :=
  (BitVec.extractLsb'_append_extractLsb'_eq_extractLsb' rfl).trans BitVec.extractLsb'_eq_self

/-- What the decoder reads from a table row is what `decode` answers for its word. -/
theorem decode_of_decodeTableWord {nbits w : Nat} {i : Instr} (h : decodeTableWord nbits w = some i) :
    decode (tableWord nbits w) = .ok i := by
  cases hd : decode (tableWord nbits w) with
  | error e => simp [decodeTableWord, decodeBytes, hd, Except.map] at h
  | ok j => simpa [decodeTableWord, decodeBytes, hd, Except.map] using h

end Sys2Proof

namespace Sys2Proof.Machine

theorem Memory.byteAt_cons (c : Nat) (w : Byte) (m : Memory) (b : Nat) :
    Memory.byteAt ((c, w) :: m) b = if b = c then w else m.byteAt b := by
  simp only [Memory.byteAt, eq_comm]

/-- Listing a byte, unless it is zero, in front of cells that do not hold its address. -/
theorem Memory.byteAt_cons_unless_zero {m : Memory} {a : Nat} (h : m.byteAt a = 0) (v : Byte) (b : Nat) :
    Memory.byteAt (if v = 0 then m else (a, v) :: m) b = if b = a then v else m.byteAt b := by
  by_cases hv : v = 0
  · subst hv
    by_cases hb : b = a
    · simp [hb, h]
    · simp [hb]
  · rw [if_neg hv, Memory.byteAt_cons]

/-- Reading after a store, in the canonical form: the byte at its own address, and at every other one what was there. -/
theorem Memory.byteAt_setByte (a b : Nat) (v : Byte) : ∀ {lo : Nat} {m : Memory}, m.wfFrom lo = true →
    (m.setByte a v).byteAt b = if b = a then v else m.byteAt b
  | _, [], _ => Memory.byteAt_cons_unless_zero rfl v b
  | _, (c, w) :: m, hm => by
    obtain ⟨_, hc, hw, hrest⟩ := Memory.wfFrom_cons.mp hm
    unfold Memory.setByte
    split
    next hac =>
      have hfree : Memory.byteAt ((c, w) :: m) a = 0 :=
        Memory.byteAt_of_lt hac (Memory.wfFrom_cons.mpr ⟨le_rfl, hc, hw, hrest⟩)
      exact Memory.byteAt_cons_unless_zero hfree v b
    next =>
      split
      next hac =>
        subst hac
        rw [Memory.byteAt_cons_unless_zero (Memory.byteAt_of_lt (Nat.lt_succ_self a) hrest), Memory.byteAt_cons]
        by_cases hb : b = a <;> simp [hb]
      next hac =>
        rw [Memory.byteAt_cons, Memory.byteAt_cons, Memory.byteAt_setByte a b v hrest]
        by_cases hb : b = c
        · subst hb; simp [Ne.symm hac]
        · simp [hb]

/-- Reading after `MemWrite` (R33). -/
theorem Memory.byteAt_write1 {m : Memory} {a : Nat} (hm : m.wf = true) (ha : a ≤ 0xFFF) (b : Nat) (v : Byte) :
    (m.write1 a v).byteAt b = if b = a then v else m.byteAt b := by
  rw [Memory.write1, if_neg (by omega), Memory.byteAt_setByte a b v hm]

/-- A fetch with both bytes inside memory answers them, high byte first (R72). -/
theorem State.fetch_of_pc_le {s : State} (hp : s.pc.toNat ≤ 0xFFE) :
    s.fetch = some (wordOfBytes (s.mem.byteAt s.pc.toNat) (s.mem.byteAt (s.pc.toNat + 1))) := by
  obtain ⟨hp', _⟩ | ⟨_, hw⟩ := s.fetch_cases
  · omega
  · exact hw

/-- The next fetch answers the word placed at `pc`: the write of its low byte leaves the high byte alone. -/
theorem State.fetch_placeWord {s : State} (w : Word) (hm : s.mem.wf = true) (hp : s.pc.toNat ≤ 0xFFE) :
    (s.placeWord w).fetch = some w := by
  have hhi : (s.mem.write1 s.pc.toNat (hiByte w)).wf = true := Memory.write1_wf _ _ hm
  rw [State.fetch_of_pc_le (s := s.placeWord w) hp]
  simp [Memory.byteAt_write1 hhi (show s.pc.toNat + 1 ≤ 0xFFF by omega),
    Memory.byteAt_write1 hm (show s.pc.toNat ≤ 0xFFF by omega)]

/-- No instruction writes memory, completed or faulted (R25). -/
theorem exec_mem {i : Instr} {s t : State} (h : exec i s = .next t) : t.mem = s.mem := by
  obtain ⟨_, rfl⟩ | ⟨f, _, rfl⟩ := exec_next_cases h
  · exact completed_mem i s
  · rfl

/-- No step writes memory, whichever way it goes (R78). -/
theorem step_mem {s t : State} (h : step s = .next t) : t.mem = s.mem := by
  obtain ⟨_, hs⟩ | ⟨_, _, hs⟩ | ⟨_, _, w, _, ⟨e, _, hs⟩ | ⟨i, _, hs⟩⟩ := step_cases s <;> rw [hs] at h
  · cases h
    rfl
  · exact (State.raise_sameMachine h).1
  · exact (State.raise_sameMachine h).1
  · exact (exec_mem h).trans s.begin_mem

end Sys2Proof.Machine
end

section
/-! Memory: the two operations on it, what leaves it alone, and running the word that stands at `pc`. -/

namespace Sys2Proof.Machine

/-- Settles O7: the fetch answers the two bytes at `pc`, and they decode. -/
theorem stepRunsTheDecodedInstruction : Obligations.StepRunsTheDecodedInstruction := by
  unfold Obligations.StepRunsTheDecodedInstruction
  intro s i hrun hp hd
  exact step_of_decode_ok hrun (State.fetch_of_pc_le hp) hd

/-- Settles O8: the next fetch answers the placed word, which decodes to what the decoder reads from its bytes. -/
theorem placedTableWordIsRunNext : Obligations.PlacedTableWordIsRunNext := by
  unfold Obligations.PlacedTableWordIsRunNext
  intro s w i hrun hm hp hi
  exact step_of_decode_ok (s := s.withFetchWord 16 w) hrun (State.fetch_placeWord _ hm hp)
    (decode_of_decodeTableWord hi)

/-- Settles O39: no step writes the list of cells, so every cell reads as before. -/
theorem noStepWritesMemory : Obligations.NoStepWritesMemory := by
  unfold Obligations.NoStepWritesMemory
  intro s t h
  exact ⟨step_mem h, fun a => by rw [step_mem h]⟩

/-- Settles O43: each read tests its bound first (R32); the two bytes weigh 256 and 1 (R34). -/
theorem memReadIsBoundedAndBigEndian : Obligations.MemReadIsBoundedAndBigEndian := by
  unfold Obligations.MemReadIsBoundedAndBigEndian
  intro m a
  exact ⟨fun h => if_neg (Nat.not_lt.mpr h), fun h => if_pos h,
    fun h => ⟨_, if_neg (Nat.not_lt.mpr h), wordOfBytes_toNat _ _⟩, fun h => if_pos h⟩

/-- Settles O44: reading after a write, the frame of an instruction, and the frame of a step for the host's operations. -/
theorem memWriteStoresOneByte : Obligations.MemWriteStoresOneByte := by
  unfold Obligations.MemWriteStoresOneByte
  refine ⟨fun m a b v hm ha => Memory.byteAt_write1 hm ha b v, fun i s t h => exec_mem h, ?host⟩
  intro op s t h hne
  cases op with
  | reset => exact .inl rfl
  | loadProgram rom => exact .inr ⟨rom, rfl⟩
  | step => exact absurd (step_mem h) hne

end Sys2Proof.Machine
end

section
/-! SUPPORT. The fields of an instruction word as numbers (R51), each word format as the tuple of its fields (R52), and
what `decode` answers, said once for each of its two answers (R57). -/

namespace Sys2Proof

/-! The fields as numbers (R51). -/

theorem opField_toNat (w : Word) : (opField w).toNat = w.toNat / 4096 := by
  have := w.isLt
  simp only [opField, BitVec.extractLsb'_toNat, Nat.shiftRight_eq_div_pow]
  omega

theorem xField_val (w : Word) : (xField w).val = w.toNat / 256 % 16 := by
  simp [xField, Nat.shiftRight_eq_div_pow]

theorem yField_val (w : Word) : (yField w).val = w.toNat / 16 % 16 := by
  simp [yField, Nat.shiftRight_eq_div_pow]

theorem nField_eq (w : Word) : nField w = w.toNat % 16 := by
  simp [nField, BitVec.extractLsb'_toNat]

theorem nnField_toNat (w : Word) : (nnField w).toNat = w.toNat % 256 := by
  simp [nnField, BitVec.extractLsb'_toNat]

theorem nnnField_toNat (w : Word) : (nnnField w).toNat = w.toNat % 4096 := by
  simp [nnnField, BitVec.extractLsb'_toNat]

/-- `n` is a 4-bit field (R51). -/
theorem nField_lt (w : Word) : nField w < 16 :=
  (w.extractLsb' 0 4).isLt

/-! The formats as numbers (R52). -/

/-- Appending `m` low bits weighs the high part by `2 ^ m`. -/
theorem toNat_append_eq_add {k m : Nat} (a : BitVec k) (b : BitVec m) :
    (a ++ b).toNat = a.toNat * 2 ^ m + b.toNat := by
  rw [BitVec.toNat_append, ← Nat.shiftLeft_add_eq_or_of_lt b.isLt, Nat.shiftLeft_eq]

theorem formatNNN_toNat (op : BitVec 4) (nnn : Addr) :
    (formatNNN op nnn).toNat = op.toNat * 4096 + nnn.toNat :=
  toNat_append_eq_add op nnn

theorem formatXNN_toNat (op : BitVec 4) (x : Reg) (nn : Byte) :
    (formatXNN op x nn).toNat = op.toNat * 4096 + x.val * 256 + nn.toNat := by
  simp only [formatXNN, toNat_append_eq_add, BitVec.toNat_ofFin]
  omega

theorem formatXYN_toNat (op : BitVec 4) (x y : Reg) (n : BitVec 4) :
    (formatXYN op x y n).toNat = op.toNat * 4096 + x.val * 256 + y.val * 16 + n.toNat := by
  simp only [formatXYN, toNat_append_eq_add, BitVec.toNat_ofFin]
  omega

/-! A word has a format's shape exactly when the parts are its fields: no bit is ignored and none is shared. -/

theorem formatNNN_eq_iff {op : BitVec 4} {nnn : Addr} {w : Word} :
    formatNNN op nnn = w ↔ opField w = op ∧ nnnField w = nnn := by
  have := nnn.isLt
  simp only [← BitVec.toNat_inj, formatNNN_toNat, opField_toNat, nnnField_toNat]
  omega

theorem formatXNN_eq_iff {op : BitVec 4} {x : Reg} {nn : Byte} {w : Word} :
    formatXNN op x nn = w ↔ opField w = op ∧ xField w = x ∧ nnField w = nn := by
  have := nn.isLt
  simp only [← BitVec.toNat_inj, Fin.ext_iff, formatXNN_toNat, opField_toNat, xField_val, nnField_toNat]
  omega

theorem formatXYN_eq_iff {op : BitVec 4} {x y : Reg} {n : BitVec 4} {w : Word} :
    formatXYN op x y n = w ↔ opField w = op ∧ xField w = x ∧ yField w = y ∧ nField w = n.toNat := by
  have := n.isLt
  simp only [← BitVec.toNat_inj, Fin.ext_iff, formatXYN_toNat, opField_toNat, xField_val, yField_val, nField_eq]
  omega

/-! The masks of R54 keep the fields they select. -/

theorem and_opMask_eq_iff {w : Word} {op : BitVec 4} : w &&& 0xF000#16 = op ++ 0#12 ↔ opField w = op := by
  obtain ⟨p, nnn, rfl⟩ : ∃ p nnn, formatNNN p nnn = w := ⟨_, _, formatNNN_eq_iff.mpr ⟨rfl, rfl⟩⟩
  rw [Laws.EncodesRow.formatNNN_op, (formatNNN_eq_iff.mp rfl).1, ← BitVec.toNat_inj, ← BitVec.toNat_inj]
  simp only [toNat_append_eq_add]
  omega

theorem and_opSubMask_eq_iff {w : Word} {op n : BitVec 4} :
    w &&& 0xF00F#16 = op ++ 0#8 ++ n ↔ opField w = op ∧ nField w = n.toNat := by
  obtain ⟨p, x, y, m, rfl⟩ : ∃ p x y m, formatXYN p x y m = w :=
    ⟨_, _, _, w.extractLsb' 0 4, formatXYN_eq_iff.mpr ⟨rfl, rfl, rfl, rfl⟩⟩
  obtain ⟨hop, -, -, hn⟩ := formatXYN_eq_iff.mp (rfl : formatXYN p x y m = _)
  rw [Laws.EncodesRow.formatXYN_op_sub, hop, hn, ← BitVec.toNat_inj, ← BitVec.toNat_inj]
  simp only [toNat_append_eq_add]
  have := m.isLt
  have := n.isLt
  omega

/-- DRW's row count, a number in `Instr`, is narrowed to 4 bits in its word; a count read from a word survives that. -/
theorem encode_drw_fields {w : Word} (hop : opField w = 0xD#4) :
    encode (.drw (xField w) (yField w) (nField w)) = w :=
  formatXYN_eq_iff.mpr ⟨hop, rfl, rfl, (Nat.mod_eq_of_lt (nField_lt w)).symm⟩

/-! The fields of a word put together from parts are the parts. -/

@[simp] theorem fields_formatNNN (op : BitVec 4) (nnn : Addr) :
    opField (formatNNN op nnn) = op ∧ nnnField (formatNNN op nnn) = nnn :=
  formatNNN_eq_iff.mp rfl

@[simp] theorem fields_formatXNN (op : BitVec 4) (x : Reg) (nn : Byte) :
    opField (formatXNN op x nn) = op ∧ xField (formatXNN op x nn) = x ∧ nnField (formatXNN op x nn) = nn :=
  formatXNN_eq_iff.mp rfl

@[simp] theorem fields_formatXYN (op : BitVec 4) (x y : Reg) (n : BitVec 4) :
    opField (formatXYN op x y n) = op ∧ xField (formatXYN op x y n) = x ∧ yField (formatXYN op x y n) = y ∧
      nField (formatXYN op x y n) = n.toNat :=
  formatXYN_eq_iff.mp rfl

/-- The words of CLS and RET lie in block 0, where no other instruction does. -/
@[simp] theorem opField_cls_ret : opField 0x00E0#16 = 0x0#4 ∧ opField 0x00EE#16 = 0x0#4 :=
  ⟨rfl, rfl⟩

/-! What `decode` answers (R57): each of its tests answers, or leaves the word to the tests below it. -/

/-- Where a test's own answer encodes to the word, and so does every answer of the tests below it, the result does. -/
theorem encode_of_test {c : Prop} [Decidable c] {i j : Instr} {r : Except DecodeReject Instr} {w : Word}
    (h : (if c then .ok j else r) = .ok i) (here : c → encode j = w ∧ j.wf = true)
    (below : r = .ok i → encode i = w ∧ i.wf = true) : encode i = w ∧ i.wf = true := by
  split at h
  next hc => exact Except.ok.inj h ▸ here hc
  next => exact below h

theorem ite_ok_eq_error_iff {ε α : Type} {c : Prop} [Decidable c] {a : α} {r : Except ε α} {e : ε} :
    (if c then .ok a else r) = .error e ↔ ¬ c ∧ r = .error e := by
  by_cases hc : c <;> simp [hc]

/-- A decoded instruction is well-formed, and encoding it gives the word back: the test that answers fixes `op`, and the
operands are the remaining fields. -/
theorem encode_of_decode {w : Word} {i : Instr} (h : decode w = .ok i) : encode i = w ∧ i.wf = true := by
  unfold decode at h
  refine encode_of_test h ?cls fun h => encode_of_test h ?ret fun h => encode_of_test h ?jp fun h =>
    encode_of_test h ?call fun h => encode_of_test h ?se fun h => encode_of_test h ?sne fun h =>
    encode_of_test h ?ldImm fun h => encode_of_test h ?addImm fun h => encode_of_test h ?ldReg fun h =>
    encode_of_test h ?subn fun h => encode_of_test h ?ldI fun h => encode_of_test h ?rnd fun h =>
    encode_of_test h ?drw nofun
  case cls | ret => exact fun hw => ⟨hw.symm, rfl⟩
  case jp | call | ldI => exact fun hop => ⟨formatNNN_eq_iff.mpr ⟨hop, rfl⟩, rfl⟩
  case se | sne | ldImm | addImm | rnd => exact fun hop => ⟨formatXNN_eq_iff.mpr ⟨hop, rfl, rfl⟩, rfl⟩
  case ldReg | subn => exact fun ⟨hop, hn⟩ => ⟨formatXYN_eq_iff.mpr ⟨hop, rfl, rfl, hn⟩, rfl⟩
  case drw => exact fun hop => ⟨encode_drw_fields hop, decide_eq_true (nField_lt w)⟩

/-- The word of a well-formed instruction decodes to it: `decode` finds its row by `op` (in the rows 8xy0 and 8xy7 by `n`
too), and the fields are the operands. -/
theorem decode_encode {i : Instr} (h : i.wf = true) : decode (encode i) = .ok i := by
  cases i with
  | cls | ret => rfl
  | drw x y n =>
    have hn : n < 16 := of_decide_eq_true h
    simp [encode, decode, formatXYN_eq_iff, Nat.mod_eq_of_lt hn]
  | _ => simp [encode, decode, formatNNN_eq_iff, formatXNN_eq_iff, formatXYN_eq_iff]

/-- What `decode` accepts, and as what. -/
theorem decode_eq_ok_iff {w : Word} {i : Instr} : decode w = .ok i ↔ encode i = w ∧ i.wf = true :=
  ⟨encode_of_decode, fun ⟨hw, hi⟩ => hw ▸ decode_encode hi⟩

/-- What `decode` rejects, and as what: the words every test of R57 lets pass. -/
theorem decode_eq_error_iff {w : Word} {e : DecodeReject} :
    decode w = .error e ↔
      (w ≠ 0x00E0#16 ∧ w ≠ 0x00EE#16 ∧ opField w ≠ 0x1#4 ∧ opField w ≠ 0x2#4 ∧ opField w ≠ 0x3#4 ∧ opField w ≠ 0x4#4 ∧
        opField w ≠ 0x6#4 ∧ opField w ≠ 0x7#4 ∧ ¬ (opField w = 0x8#4 ∧ nField w = 0x0) ∧
        ¬ (opField w = 0x8#4 ∧ nField w = 0x7) ∧ opField w ≠ 0xA#4 ∧ opField w ≠ 0xC#4 ∧ opField w ≠ 0xD#4) ∧
      .unsupported w = e := by
  simp only [decode, ite_ok_eq_error_iff, Except.error.injEq, ne_eq, and_assoc]

/-! One row of the opcode map for each format (R54): some operands fit the word exactly when its masked bits match. -/

theorem exists_decode_nnn_iff {w : Word} (mk : Addr → Instr) (op : BitVec 4)
    (hmk : ∀ nnn, encode (mk nnn) = formatNNN op nnn ∧ (mk nnn).wf = true) :
    (∃ nnn, decode w = .ok (mk nnn)) ↔ w &&& 0xF000#16 = op ++ 0#12 := by
  simp [decode_eq_ok_iff, hmk, formatNNN_eq_iff, and_opMask_eq_iff]

theorem exists_decode_xnn_iff {w : Word} (mk : Reg → Byte → Instr) (op : BitVec 4)
    (hmk : ∀ x nn, encode (mk x nn) = formatXNN op x nn ∧ (mk x nn).wf = true) :
    (∃ x nn, decode w = .ok (mk x nn)) ↔ w &&& 0xF000#16 = op ++ 0#12 := by
  simp [decode_eq_ok_iff, hmk, formatXNN_eq_iff, and_opMask_eq_iff]

theorem exists_decode_xy_iff {w : Word} (mk : Reg → Reg → Instr) (op n : BitVec 4)
    (hmk : ∀ x y, encode (mk x y) = formatXYN op x y n ∧ (mk x y).wf = true) :
    (∃ x y, decode w = .ok (mk x y)) ↔ w &&& 0xF00F#16 = op ++ 0#8 ++ n := by
  simp [decode_eq_ok_iff, hmk, formatXYN_eq_iff, and_opSubMask_eq_iff]

theorem exists_decode_drw_iff {w : Word} :
    (∃ x y n, decode w = .ok (.drw x y n)) ↔ w &&& 0xF000#16 = 0xD#4 ++ 0#12 := by
  rw [and_opMask_eq_iff]
  constructor
  · rintro ⟨x, y, n, hd⟩
    exact (formatXYN_eq_iff.mp (encode_of_decode hd).1).1
  · intro hop
    exact ⟨_, _, _, decode_eq_ok_iff.mpr ⟨encode_drw_fields hop, decide_eq_true (nField_lt w)⟩⟩

end Sys2Proof
end

section
/-! The encoding: `decode` and `encode` undo each other, and which words are instructions. -/

namespace Sys2Proof

/-- Settles O2: the word of a well-formed instruction decodes to it, and so do its two bytes, which make up the word. -/
theorem encodeThenDecode : Obligations.EncodeThenDecode := by
  unfold Obligations.EncodeThenDecode
  intro i rest hi
  have hd : decode (encode i) = .ok i := decode_encode hi
  exact ⟨hd, by simp [encodeBytes, decodeBytes, hd, Except.map]⟩

/-- Settles O3: in each row of the map the word is put together from its own fields. -/
theorem decodeThenEncode : Obligations.DecodeThenEncode := by
  unfold Obligations.DecodeThenEncode
  exact fun w i h => encode_of_decode h

/-- Settles O4: the tests of R57 that let a word pass, as tests of its top and its low nibble. -/
theorem unsupportedWordsAreThoseOfTheTable : Obligations.UnsupportedWordsAreThoseOfTheTable := by
  unfold Obligations.UnsupportedWordsAreThoseOfTheTable
  intro w
  refine ⟨fun e h => (decode_eq_error_iff.mp h).2.symm, ?table⟩
  have := w.isLt
  simp only [decode_eq_error_iff, opField_toNat, nField_eq, and_true, ne_eq, ← BitVec.toNat_inj, BitVec.reduceToNat]
  omega

/-- Settles O5: CLS and RET are one word each, and every other row has the shape of its format. -/
theorem opcodeMapMaskAndMatch : Obligations.OpcodeMapMaskAndMatch := by
  unfold Obligations.OpcodeMapMaskAndMatch
  intro w
  have hmask : w &&& 0xFFFF#16 = w := BitVec.and_allOnes
  refine ⟨?cls, ?ret,
    exists_decode_nnn_iff .jp 0x1 fun _ => ⟨rfl, rfl⟩,
    exists_decode_nnn_iff .call 0x2 fun _ => ⟨rfl, rfl⟩,
    exists_decode_xnn_iff .se 0x3 fun _ _ => ⟨rfl, rfl⟩,
    exists_decode_xnn_iff .sne 0x4 fun _ _ => ⟨rfl, rfl⟩,
    exists_decode_xnn_iff .ldImm 0x6 fun _ _ => ⟨rfl, rfl⟩,
    exists_decode_xnn_iff .addImm 0x7 fun _ _ => ⟨rfl, rfl⟩,
    exists_decode_xy_iff .ldReg 0x8 0x0 fun _ _ => ⟨rfl, rfl⟩,
    exists_decode_xy_iff .subn 0x8 0x7 fun _ _ => ⟨rfl, rfl⟩,
    exists_decode_nnn_iff .ldI 0xA fun _ => ⟨rfl, rfl⟩,
    exists_decode_xnn_iff .rnd 0xC fun _ _ => ⟨rfl, rfl⟩,
    exists_decode_drw_iff⟩
  case cls | ret =>
    rw [decode_eq_ok_iff]
    simp [encode, Instr.wf, hmask, eq_comm]

/-- Settles O6: the fields as numbers of the word, and the word as the number of its two bytes. -/
theorem fieldsOfTheInstructionWord : Obligations.FieldsOfTheInstructionWord := by
  unfold Obligations.FieldsOfTheInstructionWord
  constructor
  · intro w
    simp only [opField_toNat, xField_val, yField_val, nField_eq, nnField_toNat, nnnField_toNat, true_and]
    omega
  · intro hi lo
    have := hi.isLt
    have := lo.isLt
    simp only [opField_toNat, xField_val, yField_val, nField_eq, ← BitVec.toNat_inj, nnField_toNat,
      wordOfBytes_toNat]
    omega

/-- Settles O1: `decode` evaluated at each of the words. -/
theorem sampleWordsDecode : Obligations.SampleWordsDecode := by
  unfold Obligations.SampleWordsDecode
  decide

end Sys2Proof
end

section
/-! SUPPORT. What a step that returned `Ok` has done, and what the draw counter and the change of a draw depend on. -/

namespace Sys2Proof.Machine

/-- A fetch at or past 0xFFF reads nothing (R72). -/
theorem State.fetch_of_le_pc {s : State} (hp : 0xFFF ≤ s.pc.toNat) : s.fetch = none := by
  obtain ⟨_, hw⟩ | ⟨hp', _⟩ := s.fetch_cases
  · exact hw
  · omega

/-- From a fetch inside memory the advance of `pc` does not wrap (R73). -/
theorem State.advance_pc_toNat {s : State} (hp : s.pc.toNat ≤ 0xFFE) : s.advance.pc.toNat = s.pc.toNat + 2 := by
  rw [State.advance_pc]
  bv_omega

/-- From a fetch inside memory a skip does not wrap either (R93, R94). -/
theorem State.skipIf_pc_toNat {s : State} (hp : s.pc.toNat ≤ 0xFFE) (b : Bool) :
    (s.skipIf b).pc.toNat = s.pc.toNat + 2 + (if b = true then 2 else 0) := by
  cases b
  · exact State.advance_pc_toNat hp
  · rw [State.skipIf_pc, if_pos rfl, if_pos rfl]
    bv_omega

/-- The start of a step writes no register. -/
@[simp] theorem State.reg_begin (s : State) (x : Reg) : s.begin.reg x = s.reg x := rfl

/-- A RET that raises no fault leaves in `pc` the top of the stack it began with (R90). -/
theorem completed_ret_pc {s : State} (hf : raisedFault .ret s = none) :
    s.stack.getLast? = some (completed .ret s).pc := by
  have hs : s.stack ≠ [] := by simpa [raisedFault] using hf
  have htop : s.top = some (s.stack.getLast hs) := List.getLast?_eq_some_getLast hs
  rw [completed, State.setPc_pc, htop, Option.getD_some]
  exact htop

/-- A step that returns `Ok` completed the instruction at `pc`: it faulted neither before nor in it (R76, R78). -/
theorem step_of_out_ok {s t : State} {changed : Bool} (h : step s = .next t) (hout : t.out = .ok changed) :
    s.pc.toNat ≤ 0xFFE ∧
    ∃ i, decode (wordOfBytes (s.mem.byteAt s.pc.toNat) (s.mem.byteAt (s.pc.toNat + 1))) = .ok i ∧
      raisedFault i s.begin = none ∧ t = { completed i s.begin with out := .ok (reportedChange i s.begin) } := by
  obtain ⟨_, hs⟩ | ⟨_, _, hs⟩ | ⟨_, hp, w, rfl, ⟨e, _, hs⟩ | ⟨i, hd, hs⟩⟩ := step_cases s <;> rw [hs] at h
  · cases h
    cases hout
  · cases h
    cases hout
  · cases h
    cases hout
  · obtain hcompleted | ⟨f, _, rfl⟩ := exec_next_cases h
    · exact ⟨hp, i, hd, hcompleted⟩
    · cases hout

/-- DRW reports a change exactly when some cell differs (R116). -/
theorem drawing_changed_iff (s : State) (x y : Reg) (n : Nat) :
    (s.drawing x y n).changed = true ↔ ∃ r c, (s.drawing x y n).display.cell r c ≠ s.display.cell r c := by
  have h := drawing_toggles s x y n
  simp only [h.changed, h.cell, Bool.false_eq_true, false_or]
  refine exists_congr fun r => exists_congr fun c => ?_
  cases s.display.cell r c <;> simp

theorem drawsRandom_eq_true {i : Instr} (h : drawsRandom i = true) : ∃ x nn, i = .rnd x nn := by
  cases i with
  | rnd x nn => exact ⟨x, nn, rfl⟩
  | _ => cases h

section

variable (i : Instr) (s : State) (k : Nat)

theorem raisedFault_congr_draws : raisedFault i { s with draws := k } = raisedFault i s := by
  cases i <;> rfl

theorem reportedChange_congr_draws : reportedChange i { s with draws := k } = reportedChange i s := by
  cases i <;> rfl

/-- An instruction that draws no random byte carries the position of the source along (R79). -/
theorem completed_congr_draws (h : drawsRandom i = false) :
    completed i { s with draws := k } = { completed i s with draws := k } := by
  cases i with
  | rnd x nn => cases h
  | se x nn => exact State.skipIf_comm (u := fun s => { s with draws := k }) (fun _ => rfl) s _
  | sne x nn => exact State.skipIf_comm (u := fun s => { s with draws := k }) (fun _ => rfl) s _
  | drw x y n =>
    exact State.setCollision_comm (u := fun s => { s with draws := k }) (fun _ => rfl)
      (s.advance.setDisplay (s.drawing x y n).display) _
  | _ => rfl

/-- An instruction that draws no random byte answers the same wherever the source stands (R79). -/
theorem exec_congr_draws (h : drawsRandom i = false) :
    exec i { s with draws := k } = mapNext (fun t => { t with draws := k }) (exec i s) := by
  have hf : raisedFault i { s with draws := k } = raisedFault i s := raisedFault_congr_draws i s k
  cases hr : raisedFault i s with
  | none =>
    rw [exec_of_no_raisedFault hr, exec_of_no_raisedFault (hf.trans hr), completed_congr_draws i s k h,
      reportedChange_congr_draws]
    rfl
  | some f =>
    rw [exec_of_raisedFault hr, exec_of_raisedFault (hf.trans hr)]
    rfl

end

/-- An instruction that moved the random source is an RND, and moved it by one (R79). -/
theorem exec_draws_ne {i : Instr} {s t : State} (h : exec i s = .next t) (hne : t.draws ≠ s.draws) :
    t.draws = s.draws + 1 ∧ ∃ x nn, i = .rnd x nn := by
  obtain ⟨_, rfl⟩ | ⟨f, _, rfl⟩ := exec_next_cases h
  · obtain ⟨x, nn, rfl⟩ := drawsRandom_eq_true (by simpa using mt (fun hw => completed_draws hw s) hne)
    exact ⟨rfl, x, nn, rfl⟩
  · exact absurd rfl hne

end Sys2Proof.Machine
end

section
/-! The step cycle: the ways a step can end before dispatch, the advance of `pc`, the result, and the random source. -/

namespace Sys2Proof.Machine

/-- Settles O15: per instruction, the `pc` it completes with, as a number; CALL's and RET's also on the stack. -/
theorem completedStepAdvancesThePc : Obligations.CompletedStepAdvancesThePc := by
  unfold Obligations.CompletedStepAdvancesThePc
  intro s t changed h hout
  obtain ⟨hp, i, hd, hf, rfl⟩ := step_of_out_ok h hout
  have hadvance : (s.pc + 2).toNat = s.pc.toNat + 2 := State.advance_pc_toNat hp
  refine ⟨hp, i, hd, ?_⟩
  cases i with
  | jp nnn => exact zextAddr_toNat nnn
  | call nnn => exact ⟨zextAddr_toNat nnn, s.pc + 2, rfl, hadvance⟩
  | ret => exact completed_ret_pc hf
  | se x nn => simpa [completed] using State.skipIf_pc_toNat (s := s.begin) hp (s.reg x == nn)
  | sne x nn => simpa [completed] using State.skipIf_pc_toNat (s := s.begin) hp (s.reg x != nn)
  | _ => simpa [completed] using hadvance

/-- Settles O17: a completed instruction reports its change, DRW's being the cells that differ; a fault reports itself. -/
theorem displayChangedResult : Obligations.DisplayChangedResult := by
  unfold Obligations.DisplayChangedResult
  intro i s t h
  obtain ⟨_, rfl⟩ | ⟨f, _, rfl⟩ := exec_next_cases h
  · refine .inl ⟨reportedChange i s, rfl, completed_fault i s, ?_⟩
    cases i with
    | drw x y n => simpa [completed, reportedChange] using drawing_changed_iff s x y n
    | _ => rfl
  · exact .inr ⟨rfl, f.code_ne_zero, rfl, rfl, rfl, rfl, rfl, rfl⟩

/-- Settles O23: `phase` is RUN already, and the target is the `pc` there was. -/
theorem selfJumpIsAFixedPoint : Obligations.SelfJumpIsAFixedPoint := by
  unfold Obligations.SelfJumpIsAFixedPoint
  intro s a hrun hphase hp ha hd
  have htarget : zextAddr a = s.pc := BitVec.eq_of_toNat_eq ((zextAddr_toNat a).trans ha.symm)
  calc step s = exec (.jp a) s.begin := step_of_decode_ok hrun (State.fetch_of_pc_le hp) hd
    _ = .next { s with phase := .run, pc := zextAddr a, out := .ok false } := rfl
    _ = .next { s with out := .ok false } := by rw [htarget, ← hphase]

/-- Settles O41: the reads by `exec_congr_draws`, and the draws of a step by those of the instruction it ran. -/
theorem onlyRandomReadsTheRandomByte : Obligations.OnlyRandomReadsTheRandomByte := by
  unfold Obligations.OnlyRandomReadsTheRandomByte
  refine ⟨fun i s k hi => exec_congr_draws i s k hi, fun s t h hne => ?_⟩
  obtain ⟨_, hs⟩ | ⟨_, _, hs⟩ | ⟨_, _, w, rfl, ⟨e, _, hs⟩ | ⟨i, hd, hs⟩⟩ := step_cases s <;> rw [hs] at h
  · cases h
    exact absurd rfl hne
  · cases h
    exact absurd rfl hne
  · cases h
    exact absurd rfl hne
  · obtain ⟨hdraws, x, nn, rfl⟩ := exec_draws_ne h hne
    exact ⟨hdraws, x, nn, hd⟩

/-- Settles O9: with nothing fetched the step raises the fault at once (R78). -/
theorem fetchPastEndOfMemoryFaults : Obligations.FetchPastEndOfMemoryFaults := by
  unfold Obligations.FetchPastEndOfMemoryFaults
  intro s hrun hp
  exact step_of_fetch_none hrun (State.fetch_of_le_pc hp)

/-- Settles O10: the fetched word has no instruction, so the decoder rejects it. -/
theorem unsupportedWordFaults : Obligations.UnsupportedWordFaults := by
  unfold Obligations.UnsupportedWordFaults
  rintro s w hrun hp rfl hnone
  cases hd : decode (wordOfBytes (s.mem.byteAt s.pc.toNat) (s.mem.byteAt (s.pc.toNat + 1))) with
  | ok i => exact absurd hd (hnone i)
  | error e => exact step_of_decode_error hrun (State.fetch_of_pc_le hp) hd

/-- Settles O11: the latch is tested before anything else (R71). -/
theorem latchedFaultIsReturnedAgain : Obligations.LatchedFaultIsReturnedAgain := by
  unfold Obligations.LatchedFaultIsReturnedAgain
  intro s hlatched
  exact step_of_latched hlatched

/-- Settles O29: the mask of the AND lets through no bit outside nn. -/
theorem randomByteAndImmediate : Obligations.RandomByteAndImmediate := by
  unfold Obligations.RandomByteAndImmediate
  intro s x nn
  have hmasked : Config.randomByte s.draws &&& nn &&& ~~~nn = 0 := by
    simp [BitVec.and_assoc]
  refine ⟨_, rfl, rfl, ?_⟩
  exact (congrArg (· &&& ~~~nn) (s.advance.drawn.reg_setReg_same x _)).trans hmasked

end Sys2Proof.Machine
end

section
/-! SUPPORT. The control-transfer instructions case by case: the premise that decides the case, and the next state. -/

namespace Sys2Proof.Machine

/-- The zero-extended target in the spelling of the statements. -/
theorem zextAddr_eq_ofNat (nnn : Addr) : zextAddr nnn = BitVec.ofNat 16 nnn.toNat := by
  have := nnn.isLt
  apply BitVec.eq_of_toNat_eq
  rw [zextAddr_toNat, BitVec.toNat_ofNat]
  omega

/-- The word a faulting CALL leaves in the latch (R54, R134). -/
theorem encode_call_eq_ofNat (nnn : Addr) : encode (.call nnn) = BitVec.ofNat 16 (0x2000 + nnn.toNat) := by
  have hword : (encode (.call nnn)).toNat = 2 * 4096 + nnn.toNat := formatNNN_toNat 2 nnn
  have := nnn.isLt
  apply BitVec.eq_of_toNat_eq
  rw [hword, BitVec.toNat_ofNat]
  omega

/-- A RET with an entry to pop returns to it (R90). -/
theorem exec_ret_of_stack {s : State} {below : List Word} {target : Word} (h : s.stack = below ++ [target]) :
    exec .ret s = .next { s with pc := target, stack := below, out := .ok false } := by
  have hf : raisedFault .ret s = none := by simp [raisedFault, h]
  have hc : completed .ret s = { s with pc := target, stack := below } := by
    simp [completed, State.top, State.dropTop, State.setPc, h]
  rw [exec_of_no_raisedFault hf, hc]
  rfl

/-- A RET with nothing to pop raises its fault (R132). -/
theorem exec_ret_of_stack_nil {s : State} (h : s.stack = []) :
    exec .ret s = s.raise .stackUnderflow (encode .ret) :=
  have hf : raisedFault .ret s = some .stackUnderflow := if_pos h
  exec_of_raisedFault hf

/-- A CALL below the ceiling pushes the address after it and jumps (R92). -/
theorem exec_call_of_depth_ne {s : State} (nnn : Addr) (h : s.stack.length ≠ s.params.stackCeiling) :
    exec (.call nnn) s =
      .next { s with pc := zextAddr nnn, stack := s.stack ++ [s.pc + 2], out := .ok false } :=
  have hf : raisedFault (.call nnn) s = none := if_neg h
  exec_of_no_raisedFault hf

/-- A CALL at the ceiling raises its fault (R134). -/
theorem exec_call_of_depth_eq {s : State} (nnn : Addr) (h : s.stack.length = s.params.stackCeiling) :
    exec (.call nnn) s = s.raise .resourceExhaustion (encode (.call nnn)) :=
  have hf : raisedFault (.call nnn) s = some .resourceExhaustion := if_pos h
  exec_of_raisedFault hf

/-- A skip adds 4 to `pc` when it is taken and 2 when it is not (R93, R94). -/
theorem State.skipIf_eq_setPc (s : State) (b : Bool) : s.skipIf b = s.setPc (s.pc + if b then 4 else 2) := by
  cases b
  · rfl
  · exact congrArg s.setPc (BitVec.add_assoc s.pc 2 2)

/-- SE is the skip on equality (R93). -/
theorem exec_se (s : State) (x : Reg) (nn : Byte) :
    exec (.se x nn) s = .next { s with pc := s.pc + if s.reg x = nn then 4 else 2, out := .ok false } := by
  rw [exec_of_no_raisedFault rfl, completed, State.skipIf_eq_setPc]
  simp [State.complete, State.setPc, reportedChange]

/-- SNE is the skip on inequality (R94). -/
theorem exec_sne (s : State) (x : Reg) (nn : Byte) :
    exec (.sne x nn) s = .next { s with pc := s.pc + if s.reg x ≠ nn then 4 else 2, out := .ok false } := by
  rw [exec_of_no_raisedFault rfl, completed, State.skipIf_eq_setPc]
  simp [State.complete, State.setPc, reportedChange]

end Sys2Proof.Machine
end

section
/-! Control transfer. -/

namespace Sys2Proof.Machine

/-- Settles O18: a stack with a top entry completes, the empty stack is the fault. -/
theorem returnPopsOrUnderflows : Obligations.ReturnPopsOrUnderflows := by
  unfold Obligations.ReturnPopsOrUnderflows
  exact ⟨fun s below target h => exec_ret_of_stack h, fun s h => exec_ret_of_stack_nil h⟩

/-- Settles O19: JP never faults. -/
theorem jumpSetsThePc : Obligations.JumpSetsThePc := by
  unfold Obligations.JumpSetsThePc
  intro s nnn
  rw [← zextAddr_eq_ofNat]
  exact exec_of_no_raisedFault rfl

/-- Settles O20: the depth decides whether CALL completes or raises its fault. -/
theorem callPushesOrExhausts : Obligations.CallPushesOrExhausts := by
  unfold Obligations.CallPushesOrExhausts
  refine ⟨fun s nnn h => ?_, fun s nnn h => ?_⟩
  · rw [← zextAddr_eq_ofNat]
    exact exec_call_of_depth_ne nnn h
  · rw [← encode_call_eq_ofNat]
    exact exec_call_of_depth_eq nnn h

/-- Settles O21: the comparison decides each of the two skips. -/
theorem skipsMoveThePc : Obligations.SkipsMoveThePc := by
  unfold Obligations.SkipsMoveThePc
  refine ⟨fun s x nn h => ⟨?_, ?_⟩, fun s x nn h => ⟨?_, ?_⟩⟩
  · rw [exec_se, if_pos h]
  · rw [exec_sne, if_neg (not_not.mpr h)]
  · rw [exec_se, if_neg h]
  · rw [exec_sne, if_pos h]

/-- Settles O22: the CALL leaves its return address on top of the old stack, which is what RET pops. -/
theorem callThenReturnRoundTrip : Obligations.CallThenReturnRoundTrip := by
  unfold Obligations.CallThenReturnRoundTrip
  intro s nnn h
  exact ⟨_, exec_call_of_depth_ne nnn h, List.length_append, fun u hu => ⟨_, exec_ret_of_stack hu, rfl, rfl⟩⟩

end Sys2Proof.Machine
end

section
/-! SUPPORT. The words of formats NNN and XNN in the spelling of the statements (R52), the one writer of `I`, and what the
registers read after the ALU instructions ADD Vx, nn and SUBN. -/

namespace Sys2Proof

theorem formatNNN_eq_ofNat (op : BitVec 4) (nnn : Addr) :
    formatNNN op nnn = BitVec.ofNat 16 (op.toNat * 4096 + nnn.toNat) := by
  rw [← formatNNN_toNat, BitVec.ofNat_toNat, BitVec.setWidth_eq]

theorem formatXNN_eq_ofNat (op : BitVec 4) (x : Reg) (nn : Byte) :
    formatXNN op x nn = BitVec.ofNat 16 (op.toNat * 4096 + x.val * 256 + nn.toNat) := by
  rw [← formatXNN_toNat, BitVec.ofNat_toNat, BitVec.setWidth_eq]

end Sys2Proof

namespace Sys2Proof.Machine

/-- LD I, nnn is the one writer of `I` (R104). -/
theorem writesIndex_eq_true {i : Instr} (h : writesIndex i = true) : ∃ nnn, i = .ldI nnn := by
  cases i with
  | ldI nnn => exact ⟨nnn, rfl⟩
  | _ => cases h

/-- An instruction after which `I` differs is an LD I: a fault keeps `I`, and so does every other completion. -/
theorem exec_i_ne {i : Instr} {s t : State} (h : exec i s = .next t) (hne : t.i ≠ s.i) : ∃ nnn, i = .ldI nnn := by
  obtain ⟨_, rfl⟩ | ⟨f, _, rfl⟩ := exec_next_cases h
  · exact writesIndex_eq_true (by simpa using mt (fun hw => completed_i hw s) hne)
  · exact absurd rfl hne

/-- The sum ADD Vx, nn leaves in its destination (R101). -/
theorem completed_addImm_reg (s : State) (x : Reg) (nn : Byte) :
    (completed (.addImm x nn) s).reg x = addByte (s.reg x) nn :=
  s.advance.reg_setReg_same x _

/-- The difference SUBN leaves in a destination that the flag does not overwrite (R103). -/
theorem completed_subn_reg {x : Reg} (hx : x ≠ VF) (s : State) (y : Reg) :
    (completed (.subn x y) s).reg x = subByte (s.reg y) (s.reg x) :=
  (State.reg_setFlag_ne _ _ hx).trans (s.advance.reg_setReg_same x _)

/-- SUBN's flag, its last write (R12, R103). -/
theorem completed_subn_flag (s : State) (x y : Reg) :
    (completed (.subn x y) s).reg VF = if (s.reg y).toNat ≥ (s.reg x).toNat then 0x01 else 0x00 := by
  refine (State.reg_setFlag_same _ _).trans ?_
  simp [noBorrow]

end Sys2Proof.Machine
end

section
/-! Register and ALU: none of these instructions faults, so each completes. -/

namespace Sys2Proof.Machine

/-- Settles O28: the word has format NNN, and the frame of `I` excludes every instruction but LD I. -/
theorem setIndex : Obligations.SetIndex := by
  unfold Obligations.SetIndex
  refine ⟨fun s nnn => ⟨?word, ?next⟩, fun i s t h hne => exec_i_ne h hne⟩
  case word =>
    exact decode_eq_ok_iff.mpr ⟨formatNNN_eq_ofNat 0xA nnn, rfl⟩
  case next =>
    rw [← zextAddr_eq_ofNat]
    exact exec_of_no_raisedFault rfl

/-- Settles O24: the word has format XNN, and the completion is the one write of a register. -/
theorem loadImmediate : Obligations.LoadImmediate := by
  unfold Obligations.LoadImmediate
  intro s x nn
  exact ⟨decode_eq_ok_iff.mpr ⟨formatXNN_eq_ofNat 0x6 x nn, rfl⟩, exec_of_no_raisedFault rfl⟩

/-- Settles O25: `addByte` wraps, and the destination is the only register written. -/
theorem addImmediateWrapsWithoutFlag : Obligations.AddImmediateWrapsWithoutFlag := by
  unfold Obligations.AddImmediateWrapsWithoutFlag
  intro s x nn
  refine ⟨decode_eq_ok_iff.mpr ⟨formatXNN_eq_ofNat 0x7 x nn, rfl⟩, _, exec_of_no_raisedFault rfl,
    ?sum, fun z hz => ?frame, rfl⟩
  case sum =>
    exact (congrArg BitVec.toNat (completed_addImm_reg s x nn)).trans (addByte_toNat _ _)
  case frame =>
    exact completed_reg (i := .addImm x nn) (by simpa [writtenRegs] using hz) s

/-- Settles O26: the completion is the one write of a register, and writing a register's own value changes none. -/
theorem registerCopy : Obligations.RegisterCopy := by
  unfold Obligations.RegisterCopy
  intro s x y
  exact ⟨exec_of_no_raisedFault rfl, Vector.set_getElem_self x.isLt⟩

/-- Settles O27: the difference unless VF is the destination, then the flag, and no other register. -/
theorem reverseSubtractWithNoBorrowFlag : Obligations.ReverseSubtractWithNoBorrowFlag := by
  unfold Obligations.ReverseSubtractWithNoBorrowFlag
  intro s x y
  refine ⟨_, exec_of_no_raisedFault rfl, fun hx => ?difference, completed_subn_flag s x y, fun z hzx hzf => ?frame, rfl⟩
  case difference =>
    exact (congrArg BitVec.toNat (completed_subn_reg hx s y)).trans (subByte_toNat _ _)
  case frame =>
    exact completed_reg (i := .subn x y) (by simp [writtenRegs, hzx, hzf]) s

end Sys2Proof.Machine
end

section
/-! SUPPORT. The word of format XYN in the spelling of the statements (R52), a display as its cells, and the two ways of
DRW: what the drawing holds in the terms of the closed form (R111), and the fault before it (R112). -/

namespace Sys2Proof

theorem formatXYN_eq_ofNat (op : BitVec 4) (x y : Reg) (n : BitVec 4) :
    formatXYN op x y n = BitVec.ofNat 16 (op.toNat * 4096 + x.val * 256 + y.val * 16 + n.toNat) := by
  rw [← formatXYN_toNat, BitVec.ofNat_toNat, BitVec.setWidth_eq]

/-- The word a faulting DRW leaves in the latch (R54, R133). -/
theorem encode_drw_eq_ofNat {n : Nat} (hn : n < 16) (x y : Reg) :
    encode (.drw x y n) = BitVec.ofNat 16 (0xD000 + x.val * 256 + y.val * 16 + n) := by
  have hword : encode (.drw x y n) = BitVec.ofNat 16 (0xD000 + x.val * 256 + y.val * 16 + (BitVec.ofNat 4 n).toNat) :=
    formatXYN_eq_ofNat 0xD x y _
  rwa [BitVec.toNat_ofNat, Nat.mod_eq_of_lt hn] at hword

end Sys2Proof

namespace Sys2Proof.Machine

/-- A display is its cells (R19). -/
theorem Display.ext_cell {d d' : Display} (h : ∀ r c, d.cell r c = d'.cell r c) : d = d' :=
  Vector.ext fun r hr => Vector.ext fun c hc => h ⟨r, hr⟩ ⟨c, hc⟩

/-- Setting VF on a collision is one choice of the variable registers (R115). -/
theorem State.setCollision_eq (s : State) (b : Bool) :
    s.setCollision b = { s with v := if b = true then s.v.set VF 0x01 else s.v } := by
  cases b <;> rfl

/-- DRW of a sprite inside memory completes with its drawing (R111). -/
theorem exec_drw_of_inside {s : State} {n : Nat} (x y : Reg) (h : ¬ (n > 0 ∧ s.i.toNat + n - 1 > 0xFFF)) :
    exec (.drw x y n) s = .next { s with
      display := (s.drawing x y n).display
      v := if (s.drawing x y n).collision = true then s.v.set VF 0x01 else s.v
      pc := s.pc + 2
      out := .ok (s.drawing x y n).changed } := by
  have hf : raisedFault (.drw x y n) s = none := if_neg (mt of_decide_eq_true h)
  rw [exec_of_no_raisedFault hf, completed, State.setCollision_eq]
  rfl

/-- DRW of a sprite past the end of memory raises its fault (R112). -/
theorem exec_drw_of_past_end {s : State} {n : Nat} (x y : Reg) (h : n > 0 ∧ s.i.toNat + n - 1 > 0xFFF) :
    exec (.drw x y n) s = s.raise .outOfBoundsAccess (encode (.drw x y n)) :=
  have hf : raisedFault (.drw x y n) s = some .outOfBoundsAccess := if_pos (decide_eq_true h)
  exec_of_raisedFault hf

variable (s : State) (x y : Reg) (n : Nat)

/-- DRW collides exactly when a sprite bit lands on a lit cell (R114). -/
theorem drawing_collision_iff_spriteBit :
    (s.drawing x y n).collision = true ↔ ∃ r c, s.spriteBit x y n r c = true ∧ s.display.cell r c = true := by
  simpa using (drawing_toggles s x y n).collision

/-- DRW reports a change exactly when a sprite bit lands on a cell (R116). -/
theorem drawing_changed_iff_spriteBit :
    (s.drawing x y n).changed = true ↔ ∃ r c, s.spriteBit x y n r c = true := by
  simpa using (drawing_toggles s x y n).changed

/-- A sprite bit lands on a cell exactly when a 1 bit of some sprite row is dropped at neither edge (R113). -/
theorem exists_spriteBit_iff :
    (∃ r c, s.spriteBit x y n r c = true) ↔
      ∃ k c, k < n ∧ c < 8 ∧ (s.reg y).toNat % 32 + k ≤ 31 ∧ (s.reg x).toNat % 64 + c ≤ 63 ∧
        (s.mem.byteAt (s.i.toNat + k)).getLsbD (7 - c) = true := by
  simp only [State.spriteBit, spriteBitAt]
  constructor
  · rintro ⟨r, c, h⟩
    split at h
    next hin =>
      exact ⟨r.val - (s.reg y).toNat % 32, c.val - (s.reg x).toNat % 64, by omega, by omega, by omega, by omega, h⟩
    next => cases h
  · rintro ⟨k, c, hk, hc, hrow, hcol, hbit⟩
    refine ⟨⟨(s.reg y).toNat % 32 + k, by omega⟩, ⟨(s.reg x).toNat % 64 + c, by omega⟩, ?_⟩
    rw [if_pos (by dsimp only; omega)]
    simpa only [Nat.add_sub_cancel_left] using hbit

end Sys2Proof.Machine
end

section
/-! The display: CLS, and DRW inside memory and past its end. -/

namespace Sys2Proof.Machine

/-- Settles O33: the drawing toggles exactly the cells of the closed form, and its two flags say where. -/
theorem drawIsItsClosedForm : Obligations.DrawIsItsClosedForm := by
  unfold Obligations.DrawIsItsClosedForm
  intro s x y n h
  refine ⟨_, exec_drw_of_inside x y h, (drawing_toggles s x y n).cell, ?flag, ?rest⟩
  case flag =>
    simp only [drawing_collision_iff_spriteBit]
  case rest =>
    have hchanged : (s.drawing x y n).changed = decide (∃ r c, s.spriteBit x y n r c = true) := by
      rw [Bool.eq_iff_iff, drawing_changed_iff_spriteBit, decide_eq_true_iff]
    rw [← hchanged]

/-- Settles O35: the closed form's bits are the sprite pixels that no edge drops, and each toggles a cell. -/
theorem drawReportsAChangeIffACellDiffers : Obligations.DrawReportsAChangeIffACellDiffers := by
  unfold Obligations.DrawReportsAChangeIffACellDiffers
  intro s x y n h
  exact ⟨_, _, exec_drw_of_inside x y h, rfl,
    (drawing_changed_iff_spriteBit s x y n).trans (exists_spriteBit_iff s x y n), drawing_changed_iff s x y n⟩

/-- Settles O36: both draws toggle the same cells, and a cell under a bit is lit after the first exactly when it was
unlit before. -/
theorem drawTwiceRestoresTheDisplay : Obligations.DrawTwiceRestoresTheDisplay := by
  unfold Obligations.DrawTwiceRestoresTheDisplay
  intro s x y n h
  refine ⟨_, exec_drw_of_inside x y h, fun s' hmem hi hdisplay hx hy => ?_⟩
  have hbits : s'.spriteBit x y n = s.spriteBit x y n := by
    funext r c
    simp only [State.spriteBit, hmem, hi, hx, hy]
  have hcell : ∀ r c, s'.display.cell r c = (s.display.cell r c ^^ s.spriteBit x y n r c) := by
    rw [hdisplay]
    exact (drawing_toggles s x y n).cell
  refine ⟨_, exec_drw_of_inside x y (hi ▸ h), Display.ext_cell fun r c => ?restored, ?flag⟩
  case restored =>
    calc (s'.drawing x y n).display.cell r c
        = (s'.display.cell r c ^^ s'.spriteBit x y n r c) := (drawing_toggles s' x y n).cell r c
      _ = s.display.cell r c := by rw [hcell, hbits, Bool.xor_assoc, Bool.xor_self, Bool.xor_false]
  case flag =>
    have hlit : ∀ r c, (s'.spriteBit x y n r c = true ∧ s'.display.cell r c = true) ↔
        (s.spriteBit x y n r c = true ∧ s.display.cell r c = false) := by
      intro r c
      rw [hbits, hcell]
      cases s.display.cell r c <;> simp
    simp only [drawing_collision_iff_spriteBit, hlit]

/-- Settles O32: CLS never faults, and it leaves the blank display. -/
theorem clearScreen : Obligations.ClearScreen := by
  unfold Obligations.ClearScreen
  exact ⟨decode_encode (i := .cls) rfl, fun s => ⟨_, exec_of_no_raisedFault rfl, Display.blank_cell, rfl⟩⟩

/-- Settles O34: the bounds check comes before the draw, and a row count below 16 survives the encoding. -/
theorem drawPastEndOfMemoryFaults : Obligations.DrawPastEndOfMemoryFaults := by
  unfold Obligations.DrawPastEndOfMemoryFaults
  intro s x y n hn hpos hend
  rw [← encode_drw_eq_ofNat hn]
  exact exec_drw_of_past_end x y ⟨hpos, hend⟩

end Sys2Proof.Machine
end

section
/-! SUPPORT. A run taken one step at a time, and the faults of a step with what decides each (R130). -/

namespace Sys2Proof.Machine

/-- A run whose first step answers a state goes on from it. -/
theorem run_succ_of_step {M : Host.Core} {s t : M.State} (k : Nat) (h : M.step s = .next t) :
    M.run (k + 1) s = M.run k t := by
  rw [Host.Core.run, h]

/-- With a fault latched, any number of steps beyond none answers what the first one does: returning the latched fault
keeps the latch, so every later step returns it again (R71, R137). -/
theorem run_succ_of_latched (k : Nat) {s : State} (h : s.fault.cause ≠ 0) :
    Host.Core.run core (k + 1) s = s.refault := by
  induction k generalizing s with
  | zero => exact run_succ_of_step (M := core) 0 (step_of_latched h)
  | succ k ih => exact (run_succ_of_step (M := core) (k + 1) (step_of_latched h)).trans (ih h)

/-- The faults an instruction can raise, each with the instruction that raises it and its condition (R132, R133, R134). -/
theorem raisedFault_cases {i : Instr} {s : State} {f : Fault} (h : raisedFault i s = some f) :
    (f = .stackUnderflow ∧ i = .ret ∧ s.stack = []) ∨
    (f = .outOfBoundsAccess ∧ ∃ x y n, i = .drw x y n ∧ n > 0 ∧ s.i.toNat + n - 1 > 0xFFF) ∨
    (f = .resourceExhaustion ∧ ∃ nnn, i = .call nnn ∧ s.stack.length = s.params.stackCeiling) := by
  obtain rfl | ⟨nnn, rfl⟩ | ⟨x, y, n, rfl⟩ := raisedFault_eq_some h
  · obtain ⟨hs, hf⟩ := Option.ite_none_right_eq_some.mp h
    exact .inl ⟨(Option.some.inj hf).symm, rfl, hs⟩
  · obtain ⟨hd, hf⟩ := Option.ite_none_right_eq_some.mp h
    exact .inr (.inr ⟨(Option.some.inj hf).symm, nnn, rfl, hd⟩)
  · obtain ⟨hb, hf⟩ := Option.ite_none_right_eq_some.mp h
    obtain ⟨hn, hend⟩ := of_decide_eq_true hb
    exact .inr (.inl ⟨(Option.some.inj hf).symm, x, y, n, rfl, hn, hend⟩)

/-- A step that latches a fault raised it on the state at the start of the step: in the fetch, in the decode of the word
at `pc`, or in the instruction that word decodes to (R78, R136). -/
theorem step_raises {s t : State} (hrun : s.fault.cause = 0) (h : step s = .next t) (ht : t.fault.cause ≠ 0) :
    ∃ f fop, s.begin.raise f fop = .next t ∧
      ((0xFFF ≤ s.pc.toNat ∧ f = .outOfBoundsAccess ∧ fop = 0x0000) ∨
       (s.pc.toNat ≤ 0xFFE ∧ fop = wordOfBytes (s.mem.byteAt s.pc.toNat) (s.mem.byteAt (s.pc.toNat + 1)) ∧
        ((f = .unsupportedOpcode ∧ ∀ i, decode fop ≠ .ok i) ∨
         ∃ i, decode fop = .ok i ∧ raisedFault i s.begin = some f))) := by
  obtain ⟨hc, _⟩ | ⟨_, hp, hs⟩ | ⟨_, hp, w, hw, ⟨e, hd, hs⟩ | ⟨i, hd, hs⟩⟩ := step_cases s
  · exact absurd hrun hc
  · exact ⟨_, _, hs ▸ h, .inl ⟨hp, rfl, rfl⟩⟩
  · exact ⟨_, w, hs ▸ h, .inr ⟨hp, hw, .inl ⟨rfl, fun i hi => by simp [hd] at hi⟩⟩⟩
  · rw [hs] at h
    cases hf : raisedFault i s.begin with
    | none =>
      obtain rfl := State.complete_eq_next.mp (exec_of_no_raisedFault hf ▸ h)
      exact absurd ((congrArg FaultLatch.cause (completed_fault i s.begin)).trans hrun) ht
    | some f =>
      obtain ⟨hword, _⟩ := encode_of_decode hd
      exact ⟨f, w, hword ▸ exec_of_raisedFault hf ▸ h, .inr ⟨hp, hw, .inr ⟨i, hd, hf⟩⟩⟩

end Sys2Proof.Machine
end

section
/-! Faults and the latch. -/

namespace Sys2Proof.Machine

/-- Settles O12, by induction on the number of steps (`run_succ_of_latched`). -/
theorem latchIsStickyOverAnyRun : Obligations.LatchIsStickyOverAnyRun := by
  unfold Obligations.LatchIsStickyOverAnyRun
  intro k s hlatched
  exact run_succ_of_latched k hlatched

/-- Settles O13: an instruction completes or raises a fault, and a step does one of these or returns the latched fault;
each of the three is a next state. -/
theorem everyStepReturns : Obligations.EveryStepReturns := by
  unfold Obligations.EveryStepReturns
  have hexec : ∀ (i : Instr) (s : State), ∃ t, exec i s = .next t := by
    intro i s
    obtain ⟨u, changed, hu, _⟩ | ⟨f, hf⟩ := exec_ends i s
    · exact ⟨_, hu⟩
    · exact ⟨_, hf⟩
  refine ⟨fun s => ?_, hexec⟩
  obtain ⟨_, hs⟩ | ⟨_, _, hs⟩ | ⟨_, _, w, _, ⟨e, _, hs⟩ | ⟨i, _, hs⟩⟩ := step_cases s
  · exact ⟨_, hs⟩
  · exact ⟨_, hs⟩
  · exact ⟨_, hs⟩
  · exact hs ▸ hexec i s.begin

/-- Settles O14: the frame and the record are those of `raise` at the start of the step; the code is read off where the
fault was raised (`step_raises`) and, in an instruction, off its condition (`raisedFault_cases`). -/
theorem faultsArePreciseAndRecorded : Obligations.FaultsArePreciseAndRecorded := by
  unfold Obligations.FaultsArePreciseAndRecorded
  intro s t hrun h ht
  obtain ⟨f, fop, hraise, hwhere⟩ := step_raises hrun h ht
  obtain rfl := State.raise_eq_next.mp hraise
  refine ⟨State.raise_sameMachine (s := s.begin) hraise, rfl, rfl, rfl, rfl, rfl, fun hpast => ?past, fun hinside => ?inside⟩
  case past =>
    obtain ⟨_, rfl, rfl⟩ | ⟨hp, _⟩ := hwhere
    · exact ⟨rfl, rfl⟩
    · omega
  case inside =>
    obtain ⟨hp, _⟩ | ⟨_, hword, ⟨rfl, hnone⟩ | ⟨i, hd, hf⟩⟩ := hwhere
    · omega
    · exact ⟨hword, .inl ⟨rfl, hnone⟩⟩
    · refine ⟨hword, .inr ?_⟩
      obtain ⟨rfl, rfl, hs⟩ | ⟨rfl, x, y, n, rfl, hn, hend⟩ | ⟨rfl, nnn, rfl, hdepth⟩ := raisedFault_cases hf
      · exact .inl ⟨rfl, (encode_of_decode hd).1.symm, hs⟩
      · exact .inr (.inl ⟨rfl, x, y, n, hd, hn, hend⟩)
      · exact .inr (.inr ⟨rfl, nnn, hd, hdepth⟩)

end Sys2Proof.Machine
end

section
/-! SUPPORT. What a read returns after the loop of R162, and what LOAD_PROGRAM answers, case by case (R162,
R163). -/

namespace Sys2Proof.Machine

/-- Storing a row of bytes leaves every address outside the row alone. -/
theorem Memory.byteAt_writeBytes_outside {c : Nat} : ∀ {m : Memory} {a : Nat} {bs : List Byte}, m.wf = true →
    a + bs.length ≤ 4096 → (c < a ∨ a + bs.length ≤ c) → (m.writeBytes a bs).byteAt c = m.byteAt c
  | _, _, [], _, _, _ => rfl
  | m, a, b :: bs, hm, hfit, hc => by
    rw [List.length_cons] at hfit hc
    calc ((m.write1 a b).writeBytes (a + 1) bs).byteAt c
        = (m.write1 a b).byteAt c :=
          Memory.byteAt_writeBytes_outside (Memory.write1_wf a b hm) (by omega) (by omega)
      _ = m.byteAt c := by rw [Memory.byteAt_write1 hm (by omega), if_neg (by omega)]

/-- After storing a row of bytes from `a` on, byte `k` of the row is at `a + k`: no later store of the loop reaches it. -/
theorem Memory.byteAt_writeBytes_inside : ∀ {m : Memory} {a k : Nat} {bs : List Byte}, m.wf = true →
    a + bs.length ≤ 4096 → k < bs.length → (m.writeBytes a bs).byteAt (a + k) = bs.getD k 0
  | m, a, 0, b :: bs, hm, hfit, _ => by
    rw [List.length_cons] at hfit
    calc ((m.write1 a b).writeBytes (a + 1) bs).byteAt a
        = (m.write1 a b).byteAt a :=
          Memory.byteAt_writeBytes_outside (Memory.write1_wf a b hm) (by omega) (.inl a.lt_succ_self)
      _ = b := by rw [Memory.byteAt_write1 hm (by omega), if_pos rfl]
  | m, a, k + 1, b :: bs, hm, hfit, hk => by
    rw [List.length_cons] at hfit hk
    rw [← Nat.add_assoc, Nat.add_right_comm, List.getD_cons_succ]
    exact Memory.byteAt_writeBytes_inside (Memory.write1_wf a b hm) (by omega) (by omega)

theorem loadProgram_of_run {s : State} (rom : List Byte) (h : s.phase = .run) :
    loadProgram rom s = .refused .loadProgramAfterStart :=
  if_pos (by simp [h])

theorem loadProgram_of_too_long {s : State} {rom : List Byte} (hp : s.phase = .created) (h : rom.length > 3584) :
    loadProgram rom s = .refused .programTooLong :=
  (if_neg (not_not.mpr hp)).trans (if_pos h)

theorem loadProgram_of_fits {s : State} {rom : List Byte} (hp : s.phase = .created) (h : rom.length ≤ 3584) :
    loadProgram rom s = .next { s with mem := s.mem.writeBytes 0x200 rom, phase := .run } :=
  (if_neg (not_not.mpr hp)).trans (if_neg (Nat.not_lt.mpr h))

/-- The only next state LOAD_PROGRAM can answer. -/
theorem loadProgram_next {rom : List Byte} {s t : State} (h : loadProgram rom s = .next t) :
    t = { s with mem := s.mem.writeBytes 0x200 rom, phase := .run } := by
  cases hp : s.phase with
  | run => cases loadProgram_of_run rom hp ▸ h
  | created =>
    by_cases hlen : rom.length ≤ 3584
    · cases loadProgram_of_fits hp hlen ▸ h
      rfl
    · cases loadProgram_of_too_long hp (Nat.lt_of_not_le hlen) ▸ h

/-- Loading a program keeps the invariant: the stored bytes keep memory canonical, and `phase` is RUN afterwards. -/
theorem State.Inv.loadProgram {rom : List Byte} {s t : State} (h : s.Inv) (ht : loadProgram rom s = .next t) : t.Inv := by
  obtain rfl := loadProgram_next ht
  exact { h with
    mem_canonical := Memory.writeBytes_wf _ rom h.mem_canonical
    created_is_reset := fun hp => by cases hp }

end Sys2Proof.Machine
end

section
/-! LOAD_PROGRAM, and the invariant over all of the host's operations. -/

namespace Sys2Proof.Machine

/-- Settles O45: 3584 bytes from 0x200 on end where memory ends, so the loop stores every byte of the program. -/
theorem loadProgramCopiesTheBytes : Obligations.LoadProgramCopiesTheBytes := by
  unfold Obligations.LoadProgramCopiesTheBytes
  refine ⟨fun s rom hp hm hlen => ?load, fun p k a => ⟨rfl, Memory.byteAt_nil a⟩⟩
  have hfit : 0x200 + rom.length ≤ 4096 := by omega
  exact ⟨_, loadProgram_of_fits hp hlen, fun k hk => Memory.byteAt_writeBytes_inside hm hfit hk,
    fun a ha => Memory.byteAt_writeBytes_outside hm hfit ha, rfl⟩

/-- Settles O51, operation by operation; RESET keeps the ceiling, so the base case of the invariant applies. -/
theorem everyHostOperationKeepsTheInvariant : Obligations.EveryHostOperationKeepsTheInvariant := by
  unfold Obligations.EveryHostOperationKeepsTheInvariant
  intro op s t h ht
  cases op with
  | reset =>
    obtain ⟨_, hreset⟩ := invariantHoldsAtReset
    cases ht
    exact hreset s.params s.draws h.ceiling_pos
  | loadProgram rom => exact h.loadProgram ht
  | step => exact everyStepKeepsTheInvariant s t h ht

/-- Settles O46: a load after the start is refused for its `phase`, and one in time for its length. -/
theorem loadProgramIsRefusedOutsideItsPreconditions : Obligations.LoadProgramIsRefusedOutsideItsPreconditions := by
  unfold Obligations.LoadProgramIsRefusedOutsideItsPreconditions
  intro s rom h
  cases hp : s.phase with
  | run => exact ⟨_, loadProgram_of_run rom hp⟩
  | created =>
    obtain hrun | hlong := h
    · cases hp.symm.trans hrun
    · exact ⟨_, loadProgram_of_too_long hp hlong⟩

end Sys2Proof.Machine
end
